-- ==== Sys2Proof/Word.lean ====
section
/-! DEFINITION. The bit-vector types of the core: bytes of the input buffer, host register words, register indices. -/

namespace Sys2Proof

/-- One byte of the input buffer (R50: "one unsigned 8-bit byte"). -/
abbrev Byte := BitVec 8

/-- One host register access (R21: "one register of up to 64 bits"). -/
abbrev Word := BitVec 64

/-- A host register index (R21: "a 24-bit register index"). -/
abbrev RegIndex := BitVec 24

end Sys2Proof
end

