-- ==== Sys2Proof/Config.lean ====
section
/-! DEFINITION. What a realisation fixes: the named constants of R8 and R9, the sentinels of R16, and the values the spec leaves open (constants with no body). -/

namespace Sys2Proof.Config

/-- R8 N_ORBITS. -/
def nOrbits : Nat := 4

/-- R8 HDR_SIZE, in bytes. -/
def hdrSize : Nat := 32

/-- R8 TRL_SIZE, in bytes. -/
def trlSize : Nat := 16

/-- R8 WORD_BYTES, bytes per payload word. -/
def wordBytes : Nat := 16

/-- The divisor of the LEGACY payload formula (R27, R123). -/
def legacyDivisor : Nat := 128

/-- R8, R94 HDR_MARKER as a little-endian 16-bit value: bytes 0x48, 0x4F ("HO"). -/
def hdrMarker : BitVec 16 := 0x4F48

/-- R8, R94 TRL_MARKER_A as a little-endian 16-bit value: bytes 0x48, 0x46 ("HF"). -/
def trlMarkerA : BitVec 16 := 0x4648

/-- R8, R94 TRL_MARKER_B as a little-endian 16-bit value: bytes 0x46, 0x48. -/
def trlMarkerB : BitVec 16 := 0x4846

/-- R8 EVC_MASK, 12 bits. -/
def evcMask : Nat := 0xFFF

/-- R8 EID_MASK, 44 bits. -/
def eidMask : Nat := 0x00000FFFFFFFFFFF

/-- R8 LE_WIDTHS, in bytes. -/
def leWidths : List Nat := [1, 2, 4, 8]

/-- R8 MAX_EVENTS, the largest 12-bit eventCount. -/
def maxEvents : Nat := 4095

/-- R9 FRAG_MEM capacity, in records. -/
def fragCap : Nat := 16380

/-- R9 ORBIT_MEM capacity, in records. -/
def orbitCap : Nat := 4

/-- R9 ERR_MEM capacity, in records. -/
def errCap : Nat := 4

/-- R16 NONE_ORB: the orbit context of a standalone command. -/
def noneOrb : BitVec 8 := 0xFF

/-- R16 NONE_ORD: the fragment context of an error that belongs to no fragment. -/
def noneOrd : BitVec 16 := 0xFFFF

/-- R9, R51 BUF_CAP, the capacity of the buffer window in bytes.
OPEN in the spec (I13); its type is the bound 0 <= BUF_CAP <= 2^32 - 1 and it has no body. Log entry 1. -/
opaque bufCap : BitVec 32

/-- R52, I8: what a byte that the host never wrote reads as, given the command's draw number and the offset.
A free value, fixed for the duration of one command (R59); it has no body. Log entry 3. -/
opaque unwrittenByte : Nat → Nat → Byte

/-- R37, I9, I10: what an unspecified host read returns, given the number of the draw.
A free value; it has no body. Log entry 4. -/
opaque hostReadDraw : Nat → Word

end Sys2Proof.Config
end

