-- ==== Sys2Proof/Syntax.lean ====
section
/-! DEFINITION. The commands of the core: one constructor for each row of the opcode table (R71), and the causes of an illegal command (R24, R75). -/

namespace Sys2Proof

/-- The M field of CHECK_MARKER (R73): which marker is expected. -/
inductive MarkerSelect where
  /-- M = 0: HDR_MARKER. -/
  | header
  /-- M = 1: TRL_MARKER(tmo). -/
  | trailer
  deriving DecidableEq, Repr

/-- The seven commands (R71).
Operands in ARG0 to ARG2, CONFIG and BUF_LEN are no part of the command word (R70). -/
inductive Instr where
  /-- LE_READ (R91); `width` is the width in bytes that the W field names (R72). -/
  | leRead (width : Nat)
  /-- CHECK_MARKER (R96). -/
  | checkMarker (which : MarkerSelect)
  /-- SEGMENT (R101). -/
  | segment
  /-- PARSE_HEADER (R112). -/
  | parseHeader
  /-- PARSE_TRAILER (R131). -/
  | parseTrailer
  /-- WALK (R136). -/
  | walk
  /-- DECODE (R140). -/
  | decode
  deriving DecidableEq, Repr

/-- Why a command is illegal (STATUS.ILL_CAUSE, R24; the checks of R75). -/
inductive IllCause where
  /-- ILL_CAUSE 0: a reserved opcode. -/
  | reservedOpcode
  /-- ILL_CAUSE 1: a nonzero reserved or inapplicable field. -/
  | reservedField
  /-- ILL_CAUSE 2: BUF_LEN > BUF_CAP. -/
  | bufLen
  deriving DecidableEq, Repr

end Sys2Proof
end

