-- ==== Sys2Proof/WellFormed.lean ====
section
/-! DEFINITION. Which commands exist: the width of a field read is one of LE_WIDTHS (R8, R72). -/

namespace Sys2Proof

/-- A command that a command word can name.
The one check is LE_READ's width: "No other width can be encoded" (R72). -/
def Instr.wellFormed : Instr → Bool
  | .leRead width => decide (width ∈ Config.leWidths)
  | .checkMarker _ => true
  | .segment => true
  | .parseHeader => true
  | .parseTrailer => true
  | .walk => true
  | .decode => true

end Sys2Proof
end

