-- ==== Sys2Proof/Decode.lean ====
section
/-! DEFINITION. The command word (R70): its fields, the total decoder of the 64-bit values written to CMD (R71, R72, R73, R75, R80), and the encoder. -/

namespace Sys2Proof

/-- OPC, bits 7:0 (R70). -/
def cmdOpc (v : Word) : BitVec 8 := v.extractLsb' 0 8

/-- W, bits 9:8 (R70). -/
def cmdW (v : Word) : BitVec 2 := v.extractLsb' 8 2

/-- M, bit 10 (R70). -/
def cmdM (v : Word) : BitVec 1 := v.extractLsb' 10 1

/-- RSV, bits 31:11 (R70), with CMD's reserved bits 63:32 (R23) above them: bits 63:11. -/
def cmdRsv (v : Word) : BitVec 53 := v.extractLsb' 11 53

/-- R71: the opcode of LE_READ. -/
def opcLeRead : BitVec 8 := 0x01
/-- R71: the opcode of CHECK_MARKER. -/
def opcCheckMarker : BitVec 8 := 0x02
/-- R71: the opcode of SEGMENT. -/
def opcSegment : BitVec 8 := 0x03
/-- R71: the opcode of PARSE_HEADER. -/
def opcParseHeader : BitVec 8 := 0x04
/-- R71: the opcode of PARSE_TRAILER. -/
def opcParseTrailer : BitVec 8 := 0x05
/-- R71: the opcode of WALK. -/
def opcWalk : BitVec 8 := 0x06
/-- R71: the opcode of DECODE. -/
def opcDecode : BitVec 8 := 0x07

/-- R72: the byte width that a W code names, n = 2^W. -/
def widthOfCode (w : BitVec 2) : Nat := 2 ^ w.toNat

/-- R72: the W code of a byte width. -/
def codeOfWidth (width : Nat) : BitVec 2 :=
  if width = 1 then 0 else if width = 2 then 1 else if width = 4 then 2 else 3

/-- R73: the marker that an M bit selects. -/
def selectOfCode (m : BitVec 1) : MarkerSelect := if m = 0 then .header else .trailer

/-- R73: the M bit of a marker selection. -/
def codeOfSelect : MarkerSelect → BitVec 1
  | .header => 0
  | .trailer => 1

/-- R71: the command an opcode names, with its W or M field; none for a reserved opcode (R79). -/
def commandOf (opc : BitVec 8) (w : BitVec 2) (m : BitVec 1) : Option Instr :=
  if opc = opcLeRead then some (.leRead (widthOfCode w))
  else if opc = opcCheckMarker then some (.checkMarker (selectOfCode m))
  else if opc = opcSegment then some .segment
  else if opc = opcParseHeader then some .parseHeader
  else if opc = opcParseTrailer then some .parseTrailer
  else if opc = opcWalk then some .walk
  else if opc = opcDecode then some .decode
  else none

/-- R75 check 2: a nonzero reserved bit, or a W or M field under an opcode that does not use it. -/
def reservedFieldSet (v : Word) : Bool :=
  cmdRsv v != 0
    || (cmdW v != 0 && cmdOpc v != opcLeRead)
    || (cmdM v != 0 && cmdOpc v != opcCheckMarker)

/-- R75 checks 1 and 2, R80: every value written to CMD is one command or is illegal with a cause.
Check 3 needs BUF_LEN and is made at issue. -/
def decode (v : Word) : Except IllCause Instr :=
  match commandOf (cmdOpc v) (cmdW v) (cmdM v) with
  | none => .error .reservedOpcode
  | some i => if reservedFieldSet v then .error .reservedField else .ok i

/-- R71: the opcode of a command. -/
def opcOf : Instr → BitVec 8
  | .leRead _ => opcLeRead
  | .checkMarker _ => opcCheckMarker
  | .segment => opcSegment
  | .parseHeader => opcParseHeader
  | .parseTrailer => opcParseTrailer
  | .walk => opcWalk
  | .decode => opcDecode

/-- R70, R72: the W field of a command. -/
def wOf : Instr → BitVec 2
  | .leRead width => codeOfWidth width
  | _ => 0

/-- R70, R73: the M field of a command. -/
def mOf : Instr → BitVec 1
  | .checkMarker which => codeOfSelect which
  | _ => 0

/-- R70: a command word from its fields, with the reserved bits 0. -/
def cmdWord (opc : BitVec 8) (w : BitVec 2) (m : BitVec 1) : Word := 0#53 ++ m ++ w ++ opc

/-- The value whose write to CMD issues a command (R70 to R73). -/
def encode (i : Instr) : Word := cmdWord (opcOf i) (wOf i) (mOf i)

/-- The host's reading of the decoder: the command in the low `nbits` bits of `w`, bit 0 the least significant. -/
def decodeTableWord (nbits w : Nat) : Option Instr :=
  match decode (BitVec.ofNat 64 (w % 2 ^ nbits)) with
  | .ok i => some i
  | .error _ => none

end Sys2Proof
end

