-- ==== Sys2Proof/Machine/State.lean ====
section
/-! DEFINITION. The state of the core: every register of R22, the engine's latched copies (R40), the result memories (R34 to R36), the input buffer (R50), and the moves of the outside world still to come. -/

namespace Sys2Proof.Machine

/-- The error kinds (R150). -/
inductive ErrKind where
  | outOfBounds
  | truncatedHeader
  | badHeaderMarker
  | truncatedTrailer
  | badTrailerMarker
  | truncatedPayload
  deriving DecidableEq, Repr

/-- STATUS (R24), field by field; its bits 7 and 63:10 read 0 and are held nowhere. -/
structure Status where
  busy : Bool
  done : Bool
  err : Bool
  ill : Bool
  ovr : Bool
  hdrValid : Bool
  trlValid : Bool
  illCause : BitVec 2
  deriving DecidableEq, Repr

/-- CONFIG (R27). -/
structure ConfigReg where
  /-- Bit 0, TMO: the trailer-marker order. -/
  tmo : Bool
  /-- Bit 1, PSM: the payload scale mode. -/
  psm : Bool
  deriving DecidableEq, Repr

/-- The header result registers (R31), which are also the fields of a parsed header (R110). -/
structure OrbitHeader where
  version : BitVec 16
  sourceId : BitVec 32
  runNumber : BitVec 32
  orbitNumber : BitVec 32
  eventCount : BitVec 12
  packetWordCount : BitVec 32
  flags : BitVec 32
  checksum : BitVec 32
  /-- HDR_CURSOR: "the absolute offset immediately following the checksum field". -/
  cursor : BitVec 32
  deriving DecidableEq, Repr

/-- The trailer result registers (R32), which are also the fields of a trailer (R120). -/
structure FragmentTrailer where
  marker : BitVec 16
  fragFlags : BitVec 16
  fragSize : BitVec 32
  eventId : BitVec 44
  crc : BitVec 16
  deriving DecidableEq, Repr

/-- A FRAG_MEM record (R34). -/
structure FragRec where
  orbit : BitVec 8
  ordinal : BitVec 16
  payloadStart : BitVec 64
  payloadSize : BitVec 64
  fragSize : BitVec 32
  eventId : BitVec 44
  crc : BitVec 16
  fragFlags : BitVec 16
  deriving DecidableEq, Repr

/-- An ORBIT_MEM record (R35). -/
structure OrbitRec where
  orbit : BitVec 8
  sliceStart : BitVec 32
  version : BitVec 16
  sourceId : BitVec 32
  runNumber : BitVec 32
  orbitNumber : BitVec 32
  eventCount : BitVec 12
  packetWordCount : BitVec 32
  flags : BitVec 32
  checksum : BitVec 32
  regionStart : BitVec 32
  regionEnd : BitVec 64
  firstFrag : BitVec 15
  numFrags : BitVec 13
  /-- WALK_STATUS: none if the walk completed, else the kind of the error that halted it. -/
  walkStatus : Option ErrKind
  finalCursor : BitVec 64
  deriving DecidableEq, Repr

/-- An ERR_MEM record (R36). -/
structure ErrRec where
  kind : ErrKind
  orbit : BitVec 8
  ordinal : BitVec 16
  offset : BitVec 64
  expected : BitVec 64
  actual : BitVec 64
  deriving DecidableEq, Repr

/-- The valid records of the three result memories, in index order.
The counts FRAG_COUNT, ORBIT_COUNT and ERR_COUNT (R33: "each count the valid records") are the lengths of these lists.
A record at or beyond its count is unspecified (R37, R42) and is held nowhere. -/
structure Results where
  frags : List FragRec
  orbits : List OrbitRec
  errs : List ErrRec
  deriving DecidableEq, Repr

/-- R40 `phase`. -/
inductive Phase where
  | idle
  | run
  deriving DecidableEq, Repr

/-- The engine's internal state between steps (R40): the phase and the copies latched at issue (R74). -/
structure Engine where
  phase : Phase
  op : BitVec 8
  w : BitVec 2
  m : BitVec 1
  a0 : BitVec 32
  a1 : BitVec 32
  a2 : BitVec 32
  /-- `L`, the latched BUF_LEN. -/
  len : BitVec 32
  tmo : Bool
  psm : Bool
  /-- The model's own: the number of the draw that fixes the never-written bytes for this command (R52, R59). -/
  seed : Nat
  deriving DecidableEq, Repr

/-- The bytes of the buffer that the host has written, at strictly rising offsets.
An offset that is not listed was never written. -/
abbrev Memory := List Host.Cell

/-- What can happen next to the core: a move of the host (R20, R81), of the reset input (R170), or of the engine. -/
inductive Move where
  /-- `wr NAME, value`: one host register write. -/
  | wr (index : RegIndex) (value : Word)
  /-- `rd NAME`: one host register read. -/
  | rd (index : RegIndex)
  /-- `bytes offset: b0 b1 ...`: host writes of buffer bytes. -/
  | bytes (offset : BitVec 32) (values : List Byte)
  /-- `wait`: repeat `rd STATUS` until STATUS.DONE = 1. -/
  | wait
  /-- The reset input is asserted. -/
  | rst
  /-- The engine gets its turn: a running command completes now. -/
  | engine
  deriving DecidableEq, Repr

/-- The whole state. -/
structure State where
  status : Status
  config : ConfigReg
  bufLen : BitVec 32
  arg0 : BitVec 32
  arg1 : BitVec 32
  arg2 : BitVec 32
  result : BitVec 64
  hdr : OrbitHeader
  trl : FragmentTrailer
  results : Results
  eng : Engine
  /-- The input buffer (R50), owned by the host. -/
  buf : Memory
  /-- BUF_CAP (R9, R51): OPEN, so a part of the state that no step changes. -/
  bufCap : BitVec 32
  /-- The moves still to come, the next one first. -/
  moves : List Move
  /-- What the last host register read returned to the host (R21). -/
  rdata : Word
  /-- The model's own: how many free values have been drawn. -/
  draws : Nat
  deriving DecidableEq, Repr

/-- Why the machine stops with a fault. -/
inductive Fault where
  /-- Raised by `hostBytes`, for a host write of a buffer byte at an offset of BUF_CAP or more: the buffer window has no such byte (R9, R51). Safe. -/
  | outsideBufferWindow
  deriving DecidableEq, Repr

/-- Why the model has no move. -/
inductive Refusal where
  /-- Raised by `exec` for an instruction that has no meaning yet. Safe. -/
  | notModelled (mnemonic : String)
  /-- Raised by `hostBytes`, for a host write of a buffer byte while BUSY: "the host has no move that writes the buffer while BUSY" (R175, I7). Unsafe: it is a duty the host is taken to keep. -/
  | bufferWriteWhileBusy
  /-- Raised by `step` when the engine runs and its latched copies form no legal command: no issue leaves such a state (R74, R75). Safe. -/
  | noLegalCommandLatched
  deriving DecidableEq, Repr

/-- STATUS after reset (R42). -/
def Status.reset : Status :=
  { busy := false, done := false, err := false, ill := false, ovr := false, hdrValid := false,
    trlValid := false, illCause := 0 }

/-- CONFIG after reset (R42): TRL_MARKER_A, WORDS16. -/
def ConfigReg.reset : ConfigReg := { tmo := false, psm := false }

/-- The HDR_* registers after reset (R42). -/
def OrbitHeader.reset : OrbitHeader :=
  { version := 0, sourceId := 0, runNumber := 0, orbitNumber := 0, eventCount := 0,
    packetWordCount := 0, flags := 0, checksum := 0, cursor := 0 }

/-- The TRL_* registers after reset (R42). -/
def FragmentTrailer.reset : FragmentTrailer :=
  { marker := 0, fragFlags := 0, fragSize := 0, eventId := 0, crc := 0 }

/-- The result memories with every count 0 (R42, R74). -/
def Results.empty : Results := { frags := [], orbits := [], errs := [] }

/-- The engine after reset (R42): `phase` is IDLE.
The other fields are unspecified there; zero is a DESIGN CHOICE (log entry 5). -/
def Engine.reset : Engine :=
  { phase := .idle, op := 0, w := 0, m := 0, a0 := 0, a1 := 0, a2 := 0, len := 0, tmo := false,
    psm := false, seed := 0 }

/-- The machine right after power-on and reset (R42), with no move to come.
BUF_CAP is the open constant of Config (log entry 1); `rdata` and `draws` start at 0, a DESIGN CHOICE (log entries 4 and 6). -/
def State.reset : State :=
  { status := .reset, config := .reset, bufLen := 0, arg0 := 0, arg1 := 0, arg2 := 0, result := 0,
    hdr := .reset, trl := .reset, results := .empty, eng := .reset, buf := [],
    bufCap := Config.bufCap, moves := [], rdata := 0, draws := 0 }

end Sys2Proof.Machine
end

