-- ==== Sys2Proof/Machine/Flags.lean ====
section
/-! DEFINITION. STATUS and CONFIG as words, and every change of a STATUS field (R24 to R27, R74 to R77). -/

namespace Sys2Proof.Machine

/-- STATUS as the host reads it (R24): bits 7 and 63:10 read 0. -/
def statusWord (st : Status) : Word :=
  0#54 ++ st.illCause ++ 0#1 ++ BitVec.ofBool st.trlValid ++ BitVec.ofBool st.hdrValid
    ++ BitVec.ofBool st.ovr ++ BitVec.ofBool st.ill ++ BitVec.ofBool st.err
    ++ BitVec.ofBool st.done ++ BitVec.ofBool st.busy

/-- CONFIG as the host reads it (R27): bits 63:2 read 0. -/
def configWord (c : ConfigReg) : Word := 0#62 ++ BitVec.ofBool c.psm ++ BitVec.ofBool c.tmo

/-- CONFIG after a host write (R27): bits 63:2 ignore writes. -/
def configOfWord (v : Word) : ConfigReg := { tmo := v.getLsbD 0, psm := v.getLsbD 1 }

/-- The ILL_CAUSE code (R24, R75). -/
def illCauseCode : IllCause → BitVec 2
  | .reservedOpcode => 0
  | .reservedField => 1
  | .bufLen => 2

/-- STATUS at a legal issue of the opcode `opc` (R74); OVR is not changed. -/
def statusAtIssue (opc : BitVec 8) (st : Status) : Status :=
  { st with
    busy := true, done := false, err := false, ill := false, illCause := 0,
    hdrValid := if opc = opcParseHeader then false else st.hdrValid,
    trlValid := if opc = opcParseTrailer then false else st.trlValid }

/-- STATUS at completion (R76); `anyError` says that ERR_COUNT > 0. -/
def statusAtCompletion (anyError : Bool) (st : Status) : Status :=
  { st with err := anyError, busy := false, done := true }

/-- STATUS at an illegal command (R75); BUSY stays as it is. -/
def statusAtIllegal (cause : IllCause) (st : Status) : Status :=
  { st with ill := true, illCause := illCauseCode cause, err := false, done := true }

/-- STATUS at a CMD write while BUSY (R77). -/
def statusAtOverrun (st : Status) : Status := { st with ovr := true }

/-- STATUS at a host write of `v` to STATUS (R26): bit 4 is write 1 to clear, the others ignore writes. -/
def statusAtHostWrite (v : Word) (st : Status) : Status :=
  { st with ovr := st.ovr && !v.getLsbD 4 }

end Sys2Proof.Machine
end

