-- ==== Sys2Proof/Machine/Operands.lean ====
section
/-! DEFINITION. Operand assembly (R27, R73, R83) and the payload scale (R123): what a command's operands mean. -/

namespace Sys2Proof.Machine

/-- What the engine reads from while it executes (R41: "only its latched copies and the buffer"). -/
structure EngineView where
  buf : Memory
  /-- `L`. -/
  len : Nat
  tmo : Bool
  psm : Bool
  seed : Nat
  deriving DecidableEq, Repr

/-- The engine's view of a state: never the live registers (R78). -/
def State.view (s : State) : EngineView :=
  { buf := s.buf, len := s.eng.len.toNat, tmo := s.eng.tmo, psm := s.eng.psm, seed := s.eng.seed }

/-- TRL_MARKER(tmo) (R27, R94, R122). -/
def trlMarker (tmo : Bool) : BitVec 16 := if tmo then Config.trlMarkerB else Config.trlMarkerA

/-- The marker that CHECK_MARKER's M field selects (R73). -/
def expectedMarker (which : MarkerSelect) (tmo : Bool) : BitVec 16 :=
  match which with
  | .header => Config.hdrMarker
  | .trailer => trlMarker tmo

/-- `a0`, zero-extended (R83). -/
def operand0 (e : Engine) : Nat := e.a0.toNat

/-- `a1`, zero-extended (R83): WALK's packetWordCount. -/
def operand1 (e : Engine) : Nat := e.a1.toNat

/-- `a2 & 0xFFF` (R83, R136): WALK's eventCount. -/
def eventCountOperand (e : Engine) : Nat := e.a2.toNat &&& Config.evcMask

/-- PayloadBytes(f, psm) (R123), exact. -/
def payloadBytes (fragSize : BitVec 32) (psm : Bool) : Nat :=
  if psm then fragSize.toNat * Config.wordBytes / Config.legacyDivisor
  else fragSize.toNat * Config.wordBytes

/-- The region end `startIdx + packetWordCount * 16` (R124), exact. -/
def regionEnd (startIdx packetWordCount : Nat) : Nat := startIdx + packetWordCount * Config.wordBytes

/-- The slice size `S = L div 4` (R100). -/
def sliceSize (len : Nat) : Nat := len / Config.nOrbits

/-- The code of an error kind (R150). -/
def errCode : ErrKind → BitVec 8
  | .outOfBounds => 1
  | .truncatedHeader => 2
  | .badHeaderMarker => 3
  | .truncatedTrailer => 4
  | .badTrailerMarker => 5
  | .truncatedPayload => 6

/-- WALK_STATUS (R35): 0 if the walk completed, else the code of the error that halted it. -/
def walkStatusCode : Option ErrKind → BitVec 8
  | none => 0
  | some k => errCode k

end Sys2Proof.Machine
end

