-- ==== Sys2Proof/Machine/Ops.lean ====
section
/-! DEFINITION. The shared operations: the buffer's bytes, the field read (R90), raising an error (R14, R156), emitting records (R15), issue (R74), the illegal command (R75), completion (R76), the overrun (R77) and reset (R170). -/

namespace Sys2Proof.Machine

/-! ### The input buffer (R50 to R52) -/

/-- The canonical form: offsets strictly rise. -/
abbrev Memory.wf (m : Memory) : Prop := m.Pairwise (fun a b => a.1 < b.1)

/-- The byte the host last wrote at offset `a`; none if it never wrote one. -/
def Memory.lookup : Memory → Nat → Option Byte
  | [], _ => none
  | c :: cs, a => if c.1 = a then some c.2 else Memory.lookup cs a

/-- The buffer after the host writes `b` at offset `a`. -/
def Memory.write : Memory → Nat → Byte → Memory
  | [], a, b => [(a, b)]
  | c :: cs, a, b =>
    if a < c.1 then (a, b) :: c :: cs
    else if a = c.1 then (a, b) :: cs
    else c :: Memory.write cs a b

/-- The buffer after the host writes `bs` from offset `a` on. -/
def Memory.writeBytes : Memory → Nat → List Byte → Memory
  | m, _, [] => m
  | m, a, b :: bs => Memory.writeBytes (m.write a b) (a + 1) bs

/-- What the engine reads at offset `a`: the host's byte, or a free value fixed for the command (R52, R59). -/
def byteAt (v : EngineView) (a : Nat) : Byte :=
  match v.buf.lookup a with
  | some b => b
  | none => Config.unwrittenByte v.seed a

/-! ### The field read (R90) -/

/-- What a raise records besides its orbit and fragment context (R14, R151). -/
structure Failure where
  kind : ErrKind
  offset : Nat
  expected : Nat
  actual : Nat
  deriving DecidableEq, Repr

/-- `sum over i in [0, n) of buf[a+i] * 2^(8*i)` (R53, R90). -/
def leField (v : EngineView) (a : Nat) : Nat → Nat
  | 0 => 0
  | n + 1 => leField v a n + (byteAt v (a + n)).toNat * 2 ^ (8 * n)

/-- MemRead(a, n) (R90): the bound test comes first and is exact. -/
def memRead (v : EngineView) (a n : Nat) : Except Failure Nat :=
  if v.len < a + n then
    .error { kind := .outOfBounds, offset := a, expected := n,
             actual := if a ≤ v.len then v.len - a else 0 }
  else .ok (leField v a n)

/-! ### Errors and output records (R14, R15, R156) -/

/-- `raise`: append one error record; the raise itself stops nothing (R14). -/
def raiseIn (orb : BitVec 8) (ord : BitVec 16) (f : Failure) (r : Results) : Results :=
  { r with errs := r.errs ++ [{ kind := f.kind, orbit := orb, ordinal := ord,
                                offset := BitVec.ofNat 64 f.offset,
                                expected := BitVec.ofNat 64 f.expected,
                                actual := BitVec.ofNat 64 f.actual }] }

/-- `emit_frag` for each record in turn (R15). -/
def emitFrags (recs : List FragRec) (r : Results) : Results := { r with frags := r.frags ++ recs }

/-- `emit_orbit` (R15). -/
def emitOrbit (rec : OrbitRec) (r : Results) : Results := { r with orbits := r.orbits ++ [rec] }

/-- Taking an exception: the core's only "entry" is the append of one error record (R156).
No mode, mask, vector or handler exists, and there is no return from it (R157). -/
def raise (orb : BitVec 8) (ord : BitVec 16) (f : Failure) (s : State) : State :=
  { s with results := raiseIn orb ord f s.results }

/-- FRAG_COUNT (R33). -/
def fragCount (s : State) : BitVec 15 := BitVec.ofNat 15 s.results.frags.length

/-- ORBIT_COUNT (R33). -/
def orbitCount (s : State) : BitVec 3 := BitVec.ofNat 3 s.results.orbits.length

/-- ERR_COUNT (R33). -/
def errCount (s : State) : BitVec 3 := BitVec.ofNat 3 s.results.errs.length

/-! ### Issue and completion (R74 to R77) -/

/-- The legal issue of the value `v` written to CMD (R74), one atomic action.
It also draws the number that fixes the never-written bytes for this command (R52). -/
def issue (v : Word) (s : State) : State :=
  { s with
    eng := { phase := .run, op := cmdOpc v, w := cmdW v, m := cmdM v, a0 := s.arg0, a1 := s.arg1,
             a2 := s.arg2, len := s.bufLen, tmo := s.config.tmo, psm := s.config.psm,
             seed := s.draws },
    results := .empty,
    status := statusAtIssue (cmdOpc v) s.status,
    draws := s.draws + 1 }

/-- An illegal command (R75), one atomic action; no other state changes. -/
def illegal (cause : IllCause) (s : State) : State :=
  { s with status := statusAtIllegal cause s.status }

/-- A CMD write while BUSY (R77): ignored, and OVR is set. -/
def overrun (s : State) : State := { s with status := statusAtOverrun s.status }

/-- Completion (R76), one atomic action. -/
def complete (s : State) : State :=
  { s with
    status := statusAtCompletion (!s.results.errs.isEmpty) s.status,
    eng := { s.eng with phase := .idle } }

/-- A standalone command that stops on an error outside a walk (R156): the record, then completion. -/
def stopWith (f : Failure) (s : State) : State :=
  complete (raise Config.noneOrb Config.noneOrd f s)

/-- The command the engine runs, read from its latched copies `op`, `w` and `m` (R40, R74). -/
def fetch (e : Engine) : Except IllCause Instr := decode (cmdWord e.op e.w e.m)

/-- Reset (R42, R170, R171): every piece of the core's state at its reset value, whatever it is doing.
The buffer, BUF_CAP and what the outside world holds are not part of it. -/
def resetCore (s : State) : State :=
  { State.reset with
    buf := s.buf, bufCap := s.bufCap, moves := s.moves, rdata := s.rdata, draws := s.draws }

/-- The output signal `busy` (R25). -/
def busyOut (s : State) : Bool := s.status.busy

/-- The output signal `done` (R25). -/
def doneOut (s : State) : Bool := s.status.done

end Sys2Proof.Machine
end

