-- ==== Sys2Proof/Machine/FieldExtractor.lean ====
section
/-! DEFINITION. The little-endian field extractor and marker validation: LE_READ (R91), MarkerIs (R93) and CHECK_MARKER (R96). -/

namespace Sys2Proof.Machine

/-- LE_READ (R91): RESULT is 0, then the value read; on OutOfBounds it stays 0. -/
def execLeRead (width : Nat) (s : State) : Host.Outcome State Fault Refusal :=
  match memRead s.view (operand0 s.eng) width with
  | .error f => .next (stopWith f { s with result := 0 })
  | .ok v => .next (complete { s with result := BitVec.ofNat 64 v })

/-- MarkerIs(a, e) (R93): the match and the value read. -/
def markerIs (v : EngineView) (a : Nat) (e : BitVec 16) : Except Failure (Bool × BitVec 16) :=
  match memRead v a 2 with
  | .error f => .error f
  | .ok x => .ok (BitVec.ofNat 16 x == e, BitVec.ofNat 16 x)

/-- CHECK_MARKER (R96): a mismatch is no error, it gives RESULT = 0. -/
def execCheckMarker (which : MarkerSelect) (s : State) : Host.Outcome State Fault Refusal :=
  match markerIs s.view (operand0 s.eng) (expectedMarker which s.eng.tmo) with
  | .error f => .next (stopWith f { s with result := 0 })
  | .ok (ok, _) => .next (complete { s with result := if ok then 1 else 0 })

end Sys2Proof.Machine
end

