-- ==== Sys2Proof/Machine/HeaderParser.lean ====
section
/-! DEFINITION. The orbit header parser: ParseHeader (R110, R111) and PARSE_HEADER (R112). -/

namespace Sys2Proof.Machine

/-- The fields behind the marker, read in order by a cursor that starts at `s` (R110, R111, R113).
None of these reads can fail behind R111's length test. -/
def readHeaderFields (v : EngineView) (s : Nat) : Except Failure OrbitHeader := do
  let version ← memRead v (s + 2) 2
  let sourceId ← memRead v (s + 4) 4
  let runNumber ← memRead v (s + 8) 4
  let orbitNumber ← memRead v (s + 12) 4
  let eventCount ← memRead v (s + 16) 4
  let packetWordCount ← memRead v (s + 20) 4
  let flags ← memRead v (s + 24) 4
  let checksum ← memRead v (s + 28) 4
  return { version := BitVec.ofNat 16 version,
           sourceId := BitVec.ofNat 32 sourceId,
           runNumber := BitVec.ofNat 32 runNumber,
           orbitNumber := BitVec.ofNat 32 orbitNumber,
           eventCount := BitVec.ofNat 12 (eventCount &&& Config.evcMask),
           packetWordCount := BitVec.ofNat 32 packetWordCount,
           flags := BitVec.ofNat 32 flags,
           checksum := BitVec.ofNat 32 checksum,
           cursor := BitVec.ofNat 32 (s + Config.hdrSize) }

/-- ParseHeader(s) (R111): the length test, then the marker test, then the fields.
ACTUAL of TruncatedHeader is 0 when `s > L` (R112, R151). -/
def parseHeader (v : EngineView) (s : Nat) : Except Failure OrbitHeader :=
  if v.len < s + Config.hdrSize then
    .error { kind := .truncatedHeader, offset := s, expected := Config.hdrSize,
             actual := if s ≤ v.len then v.len - s else 0 }
  else
    match markerIs v s Config.hdrMarker with
    | .error f => .error f
    | .ok (true, _) => readHeaderFields v s
    | .ok (false, m) =>
      .error { kind := .badHeaderMarker, offset := s, expected := Config.hdrMarker.toNat,
               actual := m.toNat }

/-- PARSE_HEADER (R112): on success the HDR_* registers and HDR_VALID; on failure they keep their values (R117). -/
def execParseHeader (s : State) : Host.Outcome State Fault Refusal :=
  match parseHeader s.view (operand0 s.eng) with
  | .error f => .next (stopWith f s)
  | .ok h => .next (complete { s with hdr := h, status := { s.status with hdrValid := true } })

end Sys2Proof.Machine
end

