-- ==== Sys2Proof/Machine/Segmenter.lean ====
section
/-! DEFINITION. The orbit segmenter: SEGMENT (R101) and the slice starts (R102). -/

namespace Sys2Proof.Machine

/-- SEGMENT (R101): RESULT is the slice size; no buffer byte is read. -/
def execSegment (s : State) : Host.Outcome State Fault Refusal :=
  .next (complete { s with result := BitVec.ofNat 64 (sliceSize s.eng.len.toNat) })

/-- The start of slice `i` (R102). -/
def sliceStart (len i : Nat) : Nat := i * sliceSize len

end Sys2Proof.Machine
end

