-- ==== Sys2Proof/Machine/Walker.lean ====
section
/-! DEFINITION. The reverse fragment walker: ReadTrailer (R120, R125), PARSE_TRAILER (R131), Walk (R126) and WALK (R136). -/

namespace Sys2Proof.Machine

/-- Where a trailer read or a walk stops early: the error, and the cursor at the failure (R125, R129). -/
structure WalkStop where
  failure : Failure
  cursor : Nat
  deriving DecidableEq, Repr

/-- One trailer field read; on OutOfBounds the walk stops with the trailer start `t` as its cursor (R125). -/
def trailerRead (v : EngineView) (t off n : Nat) : Except WalkStop Nat :=
  match memRead v (t + off) n with
  | .error f => .error { failure := f, cursor := t }
  | .ok x => .ok x

/-- Step 2: the five field reads in the document's order (R120, R121, R125). -/
def readTrailerFields (v : EngineView) (t : Nat) : Except WalkStop FragmentTrailer := do
  let marker ← trailerRead v t 0 2
  let fragFlags ← trailerRead v t 2 2
  let fragSize ← trailerRead v t 4 4
  let eventId ← trailerRead v t 8 8
  let crc ← trailerRead v t 14 2
  return { marker := BitVec.ofNat 16 marker,
           fragFlags := BitVec.ofNat 16 fragFlags,
           fragSize := BitVec.ofNat 32 fragSize,
           eventId := BitVec.ofNat 44 (eventId &&& Config.eidMask),
           crc := BitVec.ofNat 16 crc }

/-- ReadTrailer(c) (R125), steps 1 to 3: the trailer that ends at cursor `c` starts at `c - 16`. -/
def readTrailer (v : EngineView) (c : Nat) : Except WalkStop FragmentTrailer :=
  if c < Config.trlSize then
    .error { failure := { kind := .truncatedTrailer, offset := c, expected := Config.trlSize,
                          actual := c },
             cursor := c }
  else
    match readTrailerFields v (c - Config.trlSize) with
    | .error e => .error e
    | .ok r =>
      if r.marker = trlMarker v.tmo then .ok r
      else .error { failure := { kind := .badTrailerMarker, offset := c - Config.trlSize,
                                 expected := (trlMarker v.tmo).toNat, actual := r.marker.toNat },
                    cursor := c - Config.trlSize }

/-- PARSE_TRAILER (R131): on success the TRL_* registers, RESULT and TRL_VALID; on failure RESULT is 0. -/
def execParseTrailer (s : State) : Host.Outcome State Fault Refusal :=
  match readTrailer s.view (operand0 s.eng) with
  | .error e => .next (stopWith e.failure { s with result := 0 })
  | .ok r =>
    .next (complete { s with
      trl := r
      result := BitVec.ofNat 64 (payloadBytes r.fragSize s.eng.psm)
      status := { s.status with trlValid := true } })

/-- What a walk produces (R126): its descriptors in the order emitted, the error that stopped it with its ordinal, and the final cursor. -/
structure WalkResult where
  frags : List FragRec
  stop : Option (BitVec 16 × Failure)
  cursor : Nat
  deriving DecidableEq, Repr

/-- The status a walk returns (R126): none is the code 0. -/
def WalkResult.status (w : WalkResult) : Option ErrKind := w.stop.map (fun e => e.2.kind)

/-- The descriptor of ordinal `k`, whose payload is the `p` bytes from `start` on (R126). -/
def fragRecOf (orb : BitVec 8) (k start p : Nat) (r : FragmentTrailer) : FragRec :=
  { orbit := orb, ordinal := BitVec.ofNat 16 k, payloadStart := BitVec.ofNat 64 start,
    payloadSize := BitVec.ofNat 64 p, fragSize := r.fragSize, eventId := r.eventId, crc := r.crc,
    fragFlags := r.fragFlags }

/-- The walk's loop (R126) from cursor `cur` with that many fragments still to find: the iteration of `k + 1` has ordinal `k`. -/
def walkFrom (v : EngineView) (orb : BitVec 8) : Nat → Nat → WalkResult
  | 0, cur => { frags := [], stop := none, cursor := cur }
  | k + 1, cur =>
    match readTrailer v cur with
    | .error e => { frags := [], stop := some (BitVec.ofNat 16 k, e.failure), cursor := e.cursor }
    | .ok r =>
      let t := cur - Config.trlSize
      let p := payloadBytes r.fragSize v.psm
      if t < p then
        { frags := [],
          stop := some (BitVec.ofNat 16 k,
            { kind := .truncatedPayload, offset := t, expected := p, actual := t }),
          cursor := t }
      else
        let rest := walkFrom v orb k (t - p)
        { rest with frags := fragRecOf orb k (t - p) p r :: rest.frags }

/-- Walk(startIdx, pwc, ec) (R126), from the region end (R124). -/
def walk (v : EngineView) (orb : BitVec 8) (startIdx pwc ec : Nat) : WalkResult :=
  walkFrom v orb ec (regionEnd startIdx pwc)

/-- The result memories after a walk: its descriptors, and its error record if it stopped early (R129). -/
def commitWalk (orb : BitVec 8) (w : WalkResult) (r : Results) : Results :=
  match w.stop with
  | none => emitFrags w.frags r
  | some (ord, f) => raiseIn orb ord f (emitFrags w.frags r)

/-- WALK (R136): RESULT is the final cursor. -/
def execWalk (s : State) : Host.Outcome State Fault Refusal :=
  let w := walk s.view Config.noneOrb (operand0 s.eng) (operand1 s.eng) (eventCountOperand s.eng)
  .next (complete { s with
    results := commitWalk Config.noneOrb w s.results
    result := BitVec.ofNat 64 w.cursor })

end Sys2Proof.Machine
end

