-- ==== Sys2Proof/Machine/BufferDecoder.lean ====
section
/-! DEFINITION. The whole-buffer decode: DECODE (R140, R141) and its propagation policy (R142, R143). -/

namespace Sys2Proof.Machine

/-- The orbit record of orbit `i` (R141): its header, and the walk `w` that began with FRAG_COUNT = `first`. -/
def orbitRecOf (i start : Nat) (h : OrbitHeader) (first : Nat) (w : WalkResult) : OrbitRec :=
  { orbit := BitVec.ofNat 8 i, sliceStart := BitVec.ofNat 32 start, version := h.version,
    sourceId := h.sourceId, runNumber := h.runNumber, orbitNumber := h.orbitNumber,
    eventCount := h.eventCount, packetWordCount := h.packetWordCount, flags := h.flags,
    checksum := h.checksum, regionStart := h.cursor,
    regionEnd := BitVec.ofNat 64 (regionEnd h.cursor.toNat h.packetWordCount.toNat),
    firstFrag := BitVec.ofNat 15 first, numFrags := BitVec.ofNat 13 w.frags.length,
    walkStatus := w.status, finalCursor := BitVec.ofNat 64 w.cursor }

/-- The walk of one orbit, with the header parser's output as its input (R141). -/
def walkOrbit (v : EngineView) (i : Nat) (h : OrbitHeader) : WalkResult :=
  walk v (BitVec.ofNat 8 i) h.cursor.toNat h.packetWordCount.toNat h.eventCount.toNat

/-- Decode's loop (R141) from orbit `i` with that many orbits still to visit.
A header failure ends the run (R142); a walk failure ends only its own orbit (R143). -/
def decodeOrbits (v : EngineView) : Nat → Nat → Results → Results
  | 0, _, r => r
  | n + 1, i, r =>
    match parseHeader v (sliceStart v.len i) with
    | .error f => raiseIn (BitVec.ofNat 8 i) Config.noneOrd f r
    | .ok h =>
      let w := walkOrbit v i h
      decodeOrbits v n (i + 1)
        (emitOrbit (orbitRecOf i (sliceStart v.len i) h r.frags.length w)
          (commitWalk (BitVec.ofNat 8 i) w r))

/-- DECODE (R140): orbits 0 to 3 in order; RESULT, HDR_* and TRL_* are not written. -/
def execDecode (s : State) : Host.Outcome State Fault Refusal :=
  .next (complete { s with results := decodeOrbits s.view Config.nOrbits 0 s.results })

end Sys2Proof.Machine
end

