-- ==== Sys2Proof/Machine/Dispatch.lean ====
section
/-! DEFINITION. The engine's execution of one command, from RUN to COMPLETE (R41): one arm per command. -/

namespace Sys2Proof.Machine

def exec (i : Instr) (s : State) : Host.Outcome State Fault Refusal :=
  match i with
  | .leRead width => Sys2Proof.Machine.execLeRead width s
  | .checkMarker which => Sys2Proof.Machine.execCheckMarker which s
  | .segment => Sys2Proof.Machine.execSegment s
  | .parseHeader => Sys2Proof.Machine.execParseHeader s
  | .parseTrailer => Sys2Proof.Machine.execParseTrailer s
  | .walk => Sys2Proof.Machine.execWalk s
  | .decode => Sys2Proof.Machine.execDecode s

end Sys2Proof.Machine
end

