-- ==== Sys2Proof/Machine/HostPort.lean ====
section
/-! DEFINITION. The host's port: the register map (R22), host register reads and writes (R21, R23, R26 to R37), the CMD write (R74 to R77, R155) and host writes of buffer bytes (R50, R51, R175). -/

namespace Sys2Proof.Machine

/-- The registers of R22; a record's register names the record and the field `f`. -/
inductive Reg where
  | cmd | status | config | bufLen | arg0 | arg1 | arg2 | result
  | hdrVersion | hdrSourceId | hdrRunNumber | hdrOrbitNumber | hdrEventCount | hdrPacketWordCount
  | hdrFlags | hdrChecksum | hdrCursor
  | trlMarker | trlFlags | trlSize | trlEventId | trlCrc
  | fragCount | orbitCount | errCount
  | frag (j f : Nat)
  | orbit (i f : Nat)
  | err (e f : Nat)
  deriving DecidableEq, Repr

/-- The registers at indices 0 to 0x18, in index order (R22). -/
def namedRegs : List Reg :=
  [.cmd, .status, .config, .bufLen, .arg0, .arg1, .arg2, .result,
   .hdrVersion, .hdrSourceId, .hdrRunNumber, .hdrOrbitNumber, .hdrEventCount, .hdrPacketWordCount,
   .hdrFlags, .hdrChecksum, .hdrCursor,
   .trlMarker, .trlFlags, .trlSize, .trlEventId, .trlCrc,
   .fragCount, .orbitCount, .errCount]

/-- R22: where FRAG_MEM begins; a record takes 8 indices. -/
def fragBase : Nat := 0x100000

/-- R22: where ORBIT_MEM begins; a record takes 16 indices. -/
def orbitBase : Nat := 0x200000

/-- R22: where ERR_MEM begins; a record takes 8 indices. -/
def errBase : Nat := 0x300000

/-- The register map (R22); none for an unmapped index. -/
def regAt (index : RegIndex) : Option Reg :=
  let n := index.toNat
  if n < fragBase then namedRegs[n]?
  else if n < fragBase + 8 * Config.fragCap then
    some (.frag ((n - fragBase) / 8) ((n - fragBase) % 8))
  else if n < orbitBase then none
  else if n < orbitBase + 16 * Config.orbitCap then
    some (.orbit ((n - orbitBase) / 16) ((n - orbitBase) % 16))
  else if n < errBase then none
  else if n < errBase + 8 * Config.errCap then
    some (.err ((n - errBase) / 8) ((n - errBase) % 8))
  else none

/-- Field `f` of a FRAG_MEM record (R34), with the upper bits 0 (R21). -/
def fragField (r : FragRec) : Nat → Word
  | 0 => r.orbit.setWidth 64
  | 1 => r.ordinal.setWidth 64
  | 2 => r.payloadStart
  | 3 => r.payloadSize
  | 4 => r.fragSize.setWidth 64
  | 5 => r.eventId.setWidth 64
  | 6 => r.crc.setWidth 64
  | 7 => r.fragFlags.setWidth 64
  | _ => 0

/-- Field `f` of an ORBIT_MEM record (R35), with the upper bits 0 (R21). -/
def orbitField (r : OrbitRec) : Nat → Word
  | 0 => r.orbit.setWidth 64
  | 1 => r.sliceStart.setWidth 64
  | 2 => r.version.setWidth 64
  | 3 => r.sourceId.setWidth 64
  | 4 => r.runNumber.setWidth 64
  | 5 => r.orbitNumber.setWidth 64
  | 6 => r.eventCount.setWidth 64
  | 7 => r.packetWordCount.setWidth 64
  | 8 => r.flags.setWidth 64
  | 9 => r.checksum.setWidth 64
  | 10 => r.regionStart.setWidth 64
  | 11 => r.regionEnd
  | 12 => r.firstFrag.setWidth 64
  | 13 => r.numFrags.setWidth 64
  | 14 => (walkStatusCode r.walkStatus).setWidth 64
  | 15 => r.finalCursor
  | _ => 0

/-- Field `f` of an ERR_MEM record (R36), with the upper bits 0 (R21); 6 and 7 are reserved and read 0. -/
def errField (r : ErrRec) : Nat → Word
  | 0 => (errCode r.kind).setWidth 64
  | 1 => r.orbit.setWidth 64
  | 2 => r.ordinal.setWidth 64
  | 3 => r.offset
  | 4 => r.expected
  | 5 => r.actual
  | _ => 0

/-- The value a register holds (R23 to R36); none for a record at or beyond its count, which is unspecified (R37). -/
def heldValue (s : State) : Reg → Option Word
  | .cmd => some 0
  | .status => some (statusWord s.status)
  | .config => some (configWord s.config)
  | .bufLen => some (s.bufLen.setWidth 64)
  | .arg0 => some (s.arg0.setWidth 64)
  | .arg1 => some (s.arg1.setWidth 64)
  | .arg2 => some (s.arg2.setWidth 64)
  | .result => some s.result
  | .hdrVersion => some (s.hdr.version.setWidth 64)
  | .hdrSourceId => some (s.hdr.sourceId.setWidth 64)
  | .hdrRunNumber => some (s.hdr.runNumber.setWidth 64)
  | .hdrOrbitNumber => some (s.hdr.orbitNumber.setWidth 64)
  | .hdrEventCount => some (s.hdr.eventCount.setWidth 64)
  | .hdrPacketWordCount => some (s.hdr.packetWordCount.setWidth 64)
  | .hdrFlags => some (s.hdr.flags.setWidth 64)
  | .hdrChecksum => some (s.hdr.checksum.setWidth 64)
  | .hdrCursor => some (s.hdr.cursor.setWidth 64)
  | .trlMarker => some (s.trl.marker.setWidth 64)
  | .trlFlags => some (s.trl.fragFlags.setWidth 64)
  | .trlSize => some (s.trl.fragSize.setWidth 64)
  | .trlEventId => some (s.trl.eventId.setWidth 64)
  | .trlCrc => some (s.trl.crc.setWidth 64)
  | .fragCount => some ((fragCount s).setWidth 64)
  | .orbitCount => some ((orbitCount s).setWidth 64)
  | .errCount => some ((errCount s).setWidth 64)
  | .frag j f => s.results.frags[j]?.map (fun r => fragField r f)
  | .orbit i f => s.results.orbits[i]?.map (fun r => orbitField r f)
  | .err e f => s.results.errs[e]?.map (fun r => errField r f)

/-- R37: the registers that read exactly while BUSY. -/
def exactWhileBusy : Reg → Bool
  | .status | .config | .bufLen | .arg0 | .arg1 | .arg2 => true
  | _ => false

/-- What the spec says a host read of a register returns (R37); none where it says "unspecified". -/
def specifiedValue (s : State) (r : Reg) : Option Word :=
  if s.status.busy && !exactWhileBusy r then none else heldValue s r

/-- A host read (R21): 0 at an unmapped index, and a free value where the spec leaves it unspecified (R37). -/
def hostRead (index : RegIndex) (s : State) : State :=
  match regAt index with
  | none => { s with rdata := 0 }
  | some r =>
    match specifiedValue s r with
    | some v => { s with rdata := v }
    | none => { s with rdata := Config.hostReadDraw s.draws, draws := s.draws + 1 }

/-- A host write of `v` to CMD (R75, R155): BUSY first, then the opcode, the fields and BUF_LEN, then issue. -/
def cmdWrite (v : Word) (s : State) : State :=
  if s.status.busy then overrun s
  else
    match decode v with
    | .error cause => illegal cause s
    | .ok _ => if s.bufCap < s.bufLen then illegal .bufLen s else issue v s

/-- A host write of `v` to a register (R21 to R29).
A read-only register ignores it; a narrower register takes the low bits; BUSY matters to CMD only (R78, R160). -/
def regWrite (r : Reg) (v : Word) (s : State) : State :=
  match r with
  | .cmd => cmdWrite v s
  | .status => { s with status := statusAtHostWrite v s.status }
  | .config => { s with config := configOfWord v }
  | .bufLen => { s with bufLen := v.setWidth 32 }
  | .arg0 => { s with arg0 := v.setWidth 32 }
  | .arg1 => { s with arg1 := v.setWidth 32 }
  | .arg2 => { s with arg2 := v.setWidth 32 }
  | _ => s

/-- A host write (R21): an unmapped index ignores it. -/
def hostWrite (index : RegIndex) (v : Word) (s : State) : State :=
  match regAt index with
  | none => s
  | some r => regWrite r v s

/-- Host writes of buffer bytes (R50, R81).
While BUSY there is no such move (R175, I7); a byte outside the window does not exist (R51). -/
def hostBytes (offset : BitVec 32) (bs : List Byte) (s : State) :
    Host.Outcome State Fault Refusal :=
  if s.status.busy then .refused .bufferWriteWhileBusy
  else if bs ≠ [] ∧ s.bufCap.toNat < offset.toNat + bs.length then .fault .outsideBufferWindow
  else .next { s with buf := s.buf.writeBytes offset.toNat bs }

/-- The `rd STATUS` of a `wait` that ends (R81). -/
def readStatus (s : State) : State := { s with rdata := statusWord s.status }

end Sys2Proof.Machine
end

