-- ==== Sys2Proof/Machine/Step.lean ====
section
/-! DEFINITION. One step of the machine: the next move of the host, of the reset input or of the engine (R20). -/

namespace Sys2Proof.Machine

/-- The engine's turn: idle, it keeps all state (R165); running, it executes its latched command from RUN to COMPLETE in one step (R41). -/
def engineStep (s : State) : Host.Outcome State Fault Refusal :=
  match s.eng.phase with
  | .idle => .next s
  | .run =>
    match fetch s.eng with
    | .ok i => exec i s
    | .error _ => .refused .noLegalCommandLatched

/-- The host's `wait` (R81): it ends with the `rd STATUS` that finds DONE = 1; until then the engine gets its turn (R179). -/
def waitStep (rest : List Move) (s : State) : Host.Outcome State Fault Refusal :=
  if s.status.done then .next (readStatus { s with moves := rest }) else engineStep s

/-- One step. With no move left, the engine's turn comes (R179). -/
def step (s : State) : Host.Outcome State Fault Refusal :=
  match s.moves with
  | [] => engineStep s
  | .engine :: rest => engineStep { s with moves := rest }
  | .wait :: rest => waitStep rest s
  | .wr index v :: rest => .next (hostWrite index v { s with moves := rest })
  | .rd index :: rest => .next (hostRead index { s with moves := rest })
  | .bytes offset bs :: rest => hostBytes offset bs { s with moves := rest }
  | .rst :: rest => .next (resetCore { s with moves := rest })

/-- The command in the low `nbits` bits of `w` placed where the engine takes its next command: issued (R74) with the engine's turn next.
An illegal value is never latched; it is placed as the host's next write to CMD, which R75 answers. Log entry 2. -/
def State.withFetchWord (s : State) (nbits w : Nat) : State :=
  match decode (BitVec.ofNat 64 (w % 2 ^ nbits)) with
  | .ok _ =>
    { issue (BitVec.ofNat 64 (w % 2 ^ nbits)) s with moves := .engine :: s.moves }
  | .error _ => { s with moves := .wr 0 (BitVec.ofNat 64 (w % 2 ^ nbits)) :: s.moves }

end Sys2Proof.Machine
end

