-- ==== Sys2Proof/Machine/HostProgram.lean ====
section
/-! DEFINITION. The command mnemonics of the host assembly and their expansions (R82): each is a list of host moves. -/

namespace Sys2Proof.Machine

/-- R22: the index of CMD. -/
def idxCmd : RegIndex := 0x000000
/-- R22: the index of STATUS. -/
def idxStatus : RegIndex := 0x000001
/-- R22: the index of CONFIG. -/
def idxConfig : RegIndex := 0x000002
/-- R22: the index of BUF_LEN. -/
def idxBufLen : RegIndex := 0x000003
/-- R22: the index of ARG0. -/
def idxArg0 : RegIndex := 0x000004
/-- R22: the index of ARG1. -/
def idxArg1 : RegIndex := 0x000005
/-- R22: the index of ARG2. -/
def idxArg2 : RegIndex := 0x000006

/-- The pseudo-instructions of R82. -/
inductive Pseudo where
  | leRead (width : Nat) (off : BitVec 32)
  | checkMarkerH (off : BitVec 32)
  | checkMarkerT (off : BitVec 32)
  | segment
  | parseHeader (s : BitVec 32)
  | parseTrailer (c : BitVec 32)
  | walk (start pwc ec : BitVec 32)
  | decode
  | config (tmo psm : Bool)
  | len (n : BitVec 32)
  deriving DecidableEq, Repr

/-- `wr CMD, word; wait` for the command `i`. -/
def issueAndWait (i : Instr) : List Move := [.wr idxCmd (encode i), .wait]

/-- The expansions of R82. -/
def Pseudo.expand : Pseudo → List Move
  | .leRead width off => .wr idxArg0 (off.setWidth 64) :: issueAndWait (.leRead width)
  | .checkMarkerH off => .wr idxArg0 (off.setWidth 64) :: issueAndWait (.checkMarker .header)
  | .checkMarkerT off => .wr idxArg0 (off.setWidth 64) :: issueAndWait (.checkMarker .trailer)
  | .segment => issueAndWait .segment
  | .parseHeader s => .wr idxArg0 (s.setWidth 64) :: issueAndWait .parseHeader
  | .parseTrailer c => .wr idxArg0 (c.setWidth 64) :: issueAndWait .parseTrailer
  | .walk start pwc ec =>
    [.wr idxArg0 (start.setWidth 64), .wr idxArg1 (pwc.setWidth 64), .wr idxArg2 (ec.setWidth 64)]
      ++ issueAndWait .walk
  | .decode => issueAndWait .decode
  | .config tmo psm => [.wr idxConfig (configWord { tmo := tmo, psm := psm })]
  | .len n => [.wr idxBufLen (n.setWidth 64)]

end Sys2Proof.Machine
end

