-- ==== Sys2Proof/Safety.lean ====
section
/-! DEFINITION. The terms the claims use: field values as sums of bytes, well-formed fragment regions, the invariant of the machine, and the duties of the host. -/

namespace Sys2Proof.Machine

/-! ### Field values, written as the spec writes them -/

/-- The value of a field of `n` bytes at offset `a` (R53), as a sum over its bytes. -/
def fieldValue (v : EngineView) (a n : Nat) : Nat :=
  ∑ i ∈ Finset.range n, (byteAt v (a + i)).toNat * 2 ^ (8 * i)

/-- The record that a failed field read of `n` bytes at `a` leaves (R36, R90, R151). -/
def outOfBoundsRec (orb : BitVec 8) (ord : BitVec 16) (len a n : Nat) : ErrRec :=
  { kind := .outOfBounds, orbit := orb, ordinal := ord, offset := BitVec.ofNat 64 a,
    expected := BitVec.ofNat 64 n,
    actual := BitVec.ofNat 64 (if a ≤ len then len - a else 0) }

/-- The record of a truncated header at `a` (R111, R112, R151). -/
def truncatedHeaderRec (orb : BitVec 8) (len a : Nat) : ErrRec :=
  { kind := .truncatedHeader, orbit := orb, ordinal := 0xFFFF, offset := BitVec.ofNat 64 a,
    expected := 32, actual := BitVec.ofNat 64 (if a ≤ len then len - a else 0) }

/-- The record of a header marker that reads `m` at `a` (R111, R151). -/
def badHeaderMarkerRec (orb : BitVec 8) (a m : Nat) : ErrRec :=
  { kind := .badHeaderMarker, orbit := orb, ordinal := 0xFFFF, offset := BitVec.ofNat 64 a,
    expected := 0x4F48, actual := BitVec.ofNat 64 m }

/-- The record of a cursor `c` with no room for a trailer before it (R125, R151). -/
def truncatedTrailerRec (orb : BitVec 8) (ord : BitVec 16) (c : Nat) : ErrRec :=
  { kind := .truncatedTrailer, orbit := orb, ordinal := ord, offset := BitVec.ofNat 64 c,
    expected := 16, actual := BitVec.ofNat 64 c }

/-- The record of a trailer at `t` whose marker reads `m` (R125, R151). -/
def badTrailerMarkerRec (orb : BitVec 8) (ord : BitVec 16) (tmo : Bool) (t m : Nat) : ErrRec :=
  { kind := .badTrailerMarker, orbit := orb, ordinal := ord, offset := BitVec.ofNat 64 t,
    expected := if tmo then 0x4846 else 0x4648, actual := BitVec.ofNat 64 m }

/-- The record of a trailer at `t` that declares a payload of `p` bytes (R126, R151). -/
def truncatedPayloadRec (orb : BitVec 8) (ord : BitVec 16) (t p : Nat) : ErrRec :=
  { kind := .truncatedPayload, orbit := orb, ordinal := ord, offset := BitVec.ofNat 64 t,
    expected := BitVec.ofNat 64 p, actual := BitVec.ofNat 64 t }

/-- The five reads of a trailer as (offset, width), in the document's order (R120, R125). -/
def trailerReads : List (Nat × Nat) := [(0, 2), (2, 2), (4, 4), (8, 8), (14, 2)]

/-- The first read of the trailer at `t` whose end passes `len` (R125, R153). -/
def firstFailingRead (len t : Nat) : Option (Nat × Nat) :=
  trailerReads.find? (fun r => decide (len < t + r.1 + r.2))

/-- The header that the 32 bytes at `a` hold (R110, R113). -/
def headerAt (v : EngineView) (a : Nat) : OrbitHeader :=
  { version := BitVec.ofNat 16 (fieldValue v (a + 2) 2),
    sourceId := BitVec.ofNat 32 (fieldValue v (a + 4) 4),
    runNumber := BitVec.ofNat 32 (fieldValue v (a + 8) 4),
    orbitNumber := BitVec.ofNat 32 (fieldValue v (a + 12) 4),
    eventCount := BitVec.ofNat 12 (fieldValue v (a + 16) 4 % 4096),
    packetWordCount := BitVec.ofNat 32 (fieldValue v (a + 20) 4),
    flags := BitVec.ofNat 32 (fieldValue v (a + 24) 4),
    checksum := BitVec.ofNat 32 (fieldValue v (a + 28) 4),
    cursor := BitVec.ofNat 32 (a + 32) }

/-- The trailer that the 16 bytes at `t` hold (R120, R121). -/
def trailerAt (v : EngineView) (t : Nat) : FragmentTrailer :=
  { marker := BitVec.ofNat 16 (fieldValue v t 2),
    fragFlags := BitVec.ofNat 16 (fieldValue v (t + 2) 2),
    fragSize := BitVec.ofNat 32 (fieldValue v (t + 4) 4),
    eventId := BitVec.ofNat 44 (fieldValue v (t + 8) 8 % 2 ^ 44),
    crc := BitVec.ofNat 16 (fieldValue v (t + 14) 2) }

/-- The slice at `a` holds a header that parses (R111): 32 bytes remain and the marker is "HO". -/
def headerOk (v : EngineView) (a : Nat) : Prop := a + 32 ≤ v.len ∧ fieldValue v a 2 = 0x4F48

/-- payloadSizeBytes of a declared size `f` (R123). -/
def payloadSizeOf (psm : Bool) (f : Nat) : Nat := if psm then f * 16 / 128 else f * 16

/-- The expected trailer marker as a number (R94). -/
def trailerMarkerValue (tmo : Bool) : Nat := if tmo then 0x4846 else 0x4648

/-! ### Fragment regions (R135, R137) -/

/-- The trailer at `t` carries the expected marker and declares `q` payload words. -/
def trailerOk (v : EngineView) (t q : Nat) : Prop :=
  fieldValue v t 2 = trailerMarkerValue v.tmo ∧ fieldValue v (t + 4) 4 = q

/-- Where the trailer of the fragment with ordinal `k` starts, for fragments of `q` words from `start` on. -/
def trailerStart (start q k : Nat) : Nat := start + k * (16 * q + 16) + 16 * q

/-- R135's region: `count` fragments of `q` payload words each, back to back from `start`, inside the buffer. -/
def wellFormedRegion (v : EngineView) (start count q : Nat) : Prop :=
  start + count * (16 * q + 16) ≤ v.len ∧ ∀ k, k < count → trailerOk v (trailerStart start q k) q

/-- R137's region: as above, but the marker of ordinal `j` is damaged. -/
def corruptedRegion (v : EngineView) (start count q j : Nat) : Prop :=
  start + count * (16 * q + 16) ≤ v.len ∧
    (∀ k, k < count → k ≠ j → trailerOk v (trailerStart start q k) q) ∧
    fieldValue v (trailerStart start q j) 2 ≠ trailerMarkerValue v.tmo ∧
    fieldValue v (trailerStart start q j + 4) 4 = q

/-- The descriptor of ordinal `k` in such a region (R126, R135). -/
def regionFrag (v : EngineView) (orb : BitVec 8) (start q k : Nat) : FragRec :=
  let r := trailerAt v (trailerStart start q k)
  { orbit := orb, ordinal := BitVec.ofNat 16 k,
    payloadStart := BitVec.ofNat 64 (start + k * (16 * q + 16)),
    payloadSize := BitVec.ofNat 64 (16 * q), fragSize := BitVec.ofNat 32 q,
    eventId := r.eventId, crc := r.crc, fragFlags := r.fragFlags }

/-! ### What the engine can see (R41, R51) -/

/-- Two views agree on the latched copies and on every byte below `L`. -/
def agreeBelowLen (v w : EngineView) : Prop :=
  v.len = w.len ∧ v.tmo = w.tmo ∧ v.psm = w.psm ∧ ∀ a, a < v.len → byteAt v a = byteAt w a

/-! ### The invariant -/

/-- What holds at reset and after every step. -/
structure MachineInv (s : State) : Prop where
  /-- The buffer keeps its canonical form. -/
  bufCanonical : s.buf.wf
  /-- Every byte written lies in the buffer window (R51). -/
  bufInWindow : ∀ c ∈ s.buf, c.1 < s.bufCap.toNat
  /-- BUSY says that the engine runs (R24, R74, R76). -/
  busyIffRun : s.status.busy = true ↔ s.eng.phase = .run
  /-- "The state (1, 1) never occurs" (R25). -/
  busyNotDone : s.status.busy = true → s.status.done = false
  /-- The latched copies of a running command form a legal command (R74, R75). -/
  runLegal : s.eng.phase = .run → ∃ i, fetch s.eng = .ok i ∧ i.wellFormed = true
  /-- The latched length lies in the window (R51, R75). -/
  runInWindow : s.eng.phase = .run → s.eng.len ≤ s.bufCap
  /-- A running command has completed nothing yet (R74). -/
  runClean : s.eng.phase = .run →
    s.results = .empty ∧ s.status.err = false ∧ s.status.ill = false ∧ s.status.illCause = 0
  /-- The IDLE state after reset (R25, R42): no command has left a mark. -/
  idleClean : s.status.busy = false → s.status.done = false →
    s.results = .empty ∧ s.status.err = false ∧ s.status.ill = false ∧ s.status.ovr = false ∧
      s.status.hdrValid = false ∧ s.status.trlValid = false
  /-- An illegal command counts as completed, without an error (R75). -/
  illDone : s.status.ill = true → s.status.done = true ∧ s.status.err = false
  /-- ERR after a legal command says whether an error record exists (R76). -/
  errFlag : s.status.done = true → s.status.ill = false →
    s.status.err = !s.results.errs.isEmpty
  /-- No count exceeds its memory's capacity (R33). -/
  fragBound : s.results.frags.length ≤ Config.fragCap
  orbitBound : s.results.orbits.length ≤ Config.orbitCap
  errBound : s.results.errs.length ≤ Config.errCap
  /-- "record n is orbit n" (R146). -/
  orbitIndex : ∀ n rec, s.results.orbits[n]? = some rec → rec.orbit = BitVec.ofNat 8 n

/-! ### The duties of the host -/

/-- The next move is no buffer write that the host must not make: none while BUSY (R175), none outside the window (R51). -/
def hostKeepsDuty (s : State) : Bool :=
  match s.moves with
  | .bytes offset bs :: _ =>
    !s.status.busy && (bs.isEmpty || decide (offset.toNat + bs.length ≤ s.bufCap.toNat))
  | _ => true

/-- R52: the host has written every byte of `[0, BUF_LEN)`. -/
def bufferWritten (s : State) : Prop := ∀ a, a < s.bufLen.toNat → (s.buf.lookup a).isSome = true

end Sys2Proof.Machine
end

