-- ==== Sys2Proof/Certificates/Slice0/Obligations.lean ====
section
/-! DEFINITION. The statements for the provers, each a proposition about the machine. -/

open Sys2Proof Sys2Proof.Machine

/-! ### The command word -/

/-- The words of R82's expansions, written from the fields of R70 to R73, decode to their commands. -/
def Obligations.SampleWordsDecode : Prop :=
  decode 0x001 = .ok (.leRead 1) ∧ decode 0x101 = .ok (.leRead 2) ∧
  decode 0x201 = .ok (.leRead 4) ∧ decode 0x301 = .ok (.leRead 8) ∧
  decode 0x002 = .ok (.checkMarker .header) ∧ decode 0x402 = .ok (.checkMarker .trailer) ∧
  decode 0x003 = .ok .segment ∧ decode 0x004 = .ok .parseHeader ∧
  decode 0x005 = .ok .parseTrailer ∧ decode 0x006 = .ok .walk ∧ decode 0x007 = .ok .decode

/-- A 64-bit value is a command's word exactly when it is the word the encoder writes for it: no bit is dropped, and no second word names the command (R70 to R73, R80). -/
def Obligations.DecodeIffEncode : Prop :=
  ∀ (v : Word) (i : Instr), decode v = .ok i ↔ i.wellFormed = true ∧ encode i = v

/-- Which values are illegal, and with which of the first two causes, in arithmetic on the value (R75 checks 1 and 2, R79). -/
def Obligations.IllegalEncodings : Prop :=
  ∀ v : Word,
    (decode v = .error .reservedOpcode ↔ v.toNat % 256 = 0 ∨ 8 ≤ v.toNat % 256) ∧
    (decode v = .error .reservedField ↔
      (1 ≤ v.toNat % 256 ∧ v.toNat % 256 ≤ 7) ∧
        (v.toNat / 2048 ≠ 0 ∨ (v.toNat / 256 % 4 ≠ 0 ∧ v.toNat % 256 ≠ 1) ∨
          (v.toNat / 1024 % 2 ≠ 0 ∧ v.toNat % 256 ≠ 2))) ∧
    decode v ≠ .error .bufLen

/-- The decoder selects the rows of the opcode table by their match and mask (R80). -/
def Obligations.OpcodeTableSelects : Prop :=
  ∀ v : Word,
    ((∃ n, decode v = .ok (.leRead n)) ↔
      v.setWidth 32 &&& 0xFFFFFCFF#32 = 0x1#32 ∧ v.toNat / 2 ^ 32 = 0) ∧
    ((∃ m, decode v = .ok (.checkMarker m)) ↔
      v.setWidth 32 &&& 0xFFFFFBFF#32 = 0x2#32 ∧ v.toNat / 2 ^ 32 = 0) ∧
    (decode v = .ok .segment ↔ v.setWidth 32 &&& 0xFFFFFFFF#32 = 0x3#32 ∧ v.toNat / 2 ^ 32 = 0) ∧
    (decode v = .ok .parseHeader ↔
      v.setWidth 32 &&& 0xFFFFFFFF#32 = 0x4#32 ∧ v.toNat / 2 ^ 32 = 0) ∧
    (decode v = .ok .parseTrailer ↔
      v.setWidth 32 &&& 0xFFFFFFFF#32 = 0x5#32 ∧ v.toNat / 2 ^ 32 = 0) ∧
    (decode v = .ok .walk ↔ v.setWidth 32 &&& 0xFFFFFFFF#32 = 0x6#32 ∧ v.toNat / 2 ^ 32 = 0) ∧
    (decode v = .ok .decode ↔ v.setWidth 32 &&& 0xFFFFFFFF#32 = 0x7#32 ∧ v.toNat / 2 ^ 32 = 0)

/-! ### Issue and the step -/

/-- When the engine has its turn and its latched copies form the command `i`, the step is `exec i`: with no move left, on an explicit turn, and during a `wait` that has not ended (R41, R74, R179).
That the list of moves says whose turn it is, is the model's choice (log entries 7 and 15). -/
def Obligations.StepRunsLatchedCommand : Prop :=
  ∀ (s : State) (i : Instr), s.eng.phase = .run →
    decode (0#53 ++ s.eng.m ++ s.eng.w ++ s.eng.op) = .ok i →
    (s.moves = [] → step s = exec i s) ∧
    (∀ ms, s.moves = .engine :: ms → step s = exec i { s with moves := ms }) ∧
    (∀ ms, s.moves = .wait :: ms → s.status.done = false → step s = exec i s)

/-- R74: a legal CMD write latches, clears and starts, and the engine's next turn executes the command written.
The clauses about `draws` and `seed` are the model's (log entries 3 and 6). -/
def Obligations.CmdWriteIssues : Prop :=
  ∀ (s : State) (v : Word) (i : Instr) (ms : List Move),
    s.status.busy = false → decode v = .ok i → s.bufLen ≤ s.bufCap → s.moves = .wr 0 v :: ms →
    ∃ t, step s = .next t ∧
      t = { s with
        moves := ms
        draws := s.draws + 1
        results := { frags := [], orbits := [], errs := [] }
        eng := { phase := .run, op := v.setWidth 8, w := (v >>> 8).setWidth 2,
                 m := (v >>> 10).setWidth 1, a0 := s.arg0, a1 := s.arg1, a2 := s.arg2,
                 len := s.bufLen, tmo := s.config.tmo, psm := s.config.psm, seed := s.draws }
        status := { s.status with
          busy := true, done := false, err := false, ill := false, illCause := 0,
          hdrValid := s.status.hdrValid && decide (i ≠ .parseHeader),
          trlValid := s.status.trlValid && decide (i ≠ .parseTrailer) } } ∧
      engineStep t = exec i t

/-- R75: the three checks in order; the first that holds gives ILL_CAUSE, and nothing else changes. -/
def Obligations.IllegalCmdWrite : Prop :=
  ∀ (s : State) (v : Word) (ms : List Move),
    s.status.busy = false → s.moves = .wr 0 v :: ms →
    let opcBad : Prop := v.toNat % 256 = 0 ∨ 8 ≤ v.toNat % 256
    let fieldBad : Prop := v.toNat / 2048 ≠ 0 ∨ (v.toNat / 256 % 4 ≠ 0 ∧ v.toNat % 256 ≠ 1) ∨
      (v.toNat / 1024 % 2 ≠ 0 ∧ v.toNat % 256 ≠ 2)
    let completedWith : BitVec 2 → State := fun cause =>
      { s with
        moves := ms
        status := { s.status with ill := true, illCause := cause, err := false, done := true } }
    (opcBad → step s = .next (completedWith 0)) ∧
    (¬ opcBad → fieldBad → step s = .next (completedWith 1)) ∧
    (¬ opcBad → ¬ fieldBad → s.bufCap < s.bufLen → step s = .next (completedWith 2))

/-- R77: a CMD write while BUSY sets OVR and changes nothing else, whatever is written. -/
def Obligations.CmdWriteWhileBusy : Prop :=
  ∀ (s : State) (v : Word) (ms : List Move),
    s.status.busy = true → s.moves = .wr 0 v :: ms →
    step s = .next { s with moves := ms, status := { s.status with ovr := true } }

/-- A command starts only by a legal CMD write made while not BUSY (R20, R74, R75). -/
def Obligations.OnlyLegalCmdWriteStarts : Prop :=
  ∀ s t : State, step s = .next t → s.status.busy = false → t.status.busy = true →
    ∃ v ms i, s.moves = .wr 0 v :: ms ∧ decode v = .ok i ∧ s.bufLen ≤ s.bufCap

/-- R165: an idle core with no move to come keeps all state.
The list of moves is the model's (log entry 7). -/
def Obligations.IdleKeepsState : Prop :=
  ∀ s : State, s.eng.phase = .idle → s.moves = [] → step s = .next s

/-- R179: a `wait` on a running command ends after the engine's turn and one `rd STATUS` that finds DONE.
The list of moves and the steps of a `wait` are the model's (log entries 7 and 15). -/
def Obligations.WaitEnds : Prop :=
  ∀ (s : State) (ms : List Move), MachineInv s → s.eng.phase = .run → s.moves = .wait :: ms →
    ∃ t, Sys2Proof.core.run 2 s = .next t ∧ t.moves = ms ∧ t.status.done = true ∧
      t.status.busy = false ∧ t.rdata.getLsbD 1 = true

/-- R170, R171, R42: the reset move puts the core into its reset values, also while a command runs; the host keeps its buffer and its moves.
That BUF_CAP and the moves stay is the model's (log entry 16). -/
def Obligations.ResetMove : Prop :=
  ∀ (s : State) (ms : List Move), s.moves = .rst :: ms →
    ∃ t, step s = .next t ∧ statusWord t.status = 0 ∧ configWord t.config = 0 ∧
      t.bufLen = 0 ∧ t.arg0 = 0 ∧ t.arg1 = 0 ∧ t.arg2 = 0 ∧ t.result = 0 ∧
      t.hdr = { version := 0, sourceId := 0, runNumber := 0, orbitNumber := 0, eventCount := 0,
                packetWordCount := 0, flags := 0, checksum := 0, cursor := 0 } ∧
      t.trl = { marker := 0, fragFlags := 0, fragSize := 0, eventId := 0, crc := 0 } ∧
      fragCount t = 0 ∧ orbitCount t = 0 ∧ errCount t = 0 ∧ t.eng.phase = .idle ∧
      t.buf = s.buf ∧ t.bufCap = s.bufCap ∧ t.moves = ms

/-! ### Host registers -/

/-- R24: the bits of STATUS; bits 7 and 63:10 read 0. -/
def Obligations.StatusLayout : Prop :=
  ∀ st : Status,
    (statusWord st).getLsbD 0 = st.busy ∧ (statusWord st).getLsbD 1 = st.done ∧
    (statusWord st).getLsbD 2 = st.err ∧ (statusWord st).getLsbD 3 = st.ill ∧
    (statusWord st).getLsbD 4 = st.ovr ∧ (statusWord st).getLsbD 5 = st.hdrValid ∧
    (statusWord st).getLsbD 6 = st.trlValid ∧ (statusWord st).getLsbD 7 = false ∧
    (statusWord st).toNat / 256 = st.illCause.toNat

/-- R27: the bits of CONFIG as the host reads it; bits 63:2 read 0. -/
def Obligations.ConfigLayout : Prop :=
  ∀ c : ConfigReg,
    (configWord c).getLsbD 0 = c.tmo ∧ (configWord c).getLsbD 1 = c.psm ∧
    (configWord c).toNat / 4 = 0

/-- R26: OVR is cleared by a STATUS write whose bit 4 is 1 or by reset, and by nothing else; a STATUS write changes nothing else. -/
def Obligations.OvrClearedOnlyByHostOrReset : Prop :=
  (∀ s t : State, step s = .next t → s.status.ovr = true → t.status.ovr = false →
    (∃ v ms, s.moves = .wr 1 v :: ms ∧ v.getLsbD 4 = true) ∨ ∃ ms, s.moves = .rst :: ms) ∧
  (∀ (s : State) (v : Word) (ms : List Move), s.moves = .wr 1 v :: ms →
    step s = .next { s with
      moves := ms
      status := { s.status with ovr := if v.getLsbD 4 then false else s.status.ovr } })

/-- R21, R27, R28, R29: writes of CONFIG, BUF_LEN and ARG0 to ARG2 store the low bits, BUSY or not. -/
def Obligations.ConfigAndOperandWrites : Prop :=
  ∀ (s : State) (v : Word) (ms : List Move),
    (s.moves = .wr 2 v :: ms → step s = .next { s with
      moves := ms, config := { tmo := v.getLsbD 0, psm := v.getLsbD 1 } }) ∧
    (s.moves = .wr 3 v :: ms → step s = .next { s with moves := ms, bufLen := v.setWidth 32 }) ∧
    (s.moves = .wr 4 v :: ms → step s = .next { s with moves := ms, arg0 := v.setWidth 32 }) ∧
    (s.moves = .wr 5 v :: ms → step s = .next { s with moves := ms, arg1 := v.setWidth 32 }) ∧
    (s.moves = .wr 6 v :: ms → step s = .next { s with moves := ms, arg2 := v.setWidth 32 })

/-- R21, R22: a write at index 7 or above (read-only or unmapped) has no effect. -/
def Obligations.IgnoredWrites : Prop :=
  ∀ (s : State) (x : RegIndex) (v : Word) (ms : List Move), 7 ≤ x.toNat → s.moves = .wr x v :: ms →
    step s = .next { s with moves := ms }

/-- R22: where the records of the result memories lie, and which indices are unmapped. -/
def Obligations.RegisterMap : Prop :=
  ∀ x : RegIndex,
    (∀ j f, j < 16380 → f < 8 → x.toNat = 0x100000 + 8 * j + f → regAt x = some (.frag j f)) ∧
    (∀ i f, i < 4 → f < 16 → x.toNat = 0x200000 + 16 * i + f → regAt x = some (.orbit i f)) ∧
    (∀ e f, e < 4 → f < 8 → x.toNat = 0x300000 + 8 * e + f → regAt x = some (.err e f)) ∧
    (regAt x = none ↔
      (0x18 < x.toNat ∧ x.toNat < 0x100000) ∨
      (0x100000 + 8 * 16380 ≤ x.toNat ∧ x.toNat < 0x200000) ∨
      (0x200000 + 16 * 4 ≤ x.toNat ∧ x.toNat < 0x300000) ∨
      0x300000 + 8 * 4 ≤ x.toNat)

/-- R21: a read at an unmapped index returns 0 and changes nothing else. -/
def Obligations.UnmappedReads : Prop :=
  ∀ (s : State) (x : RegIndex) (ms : List Move), s.moves = .rd x :: ms →
    (0x18 < x.toNat ∧ x.toNat < 0x100000) ∨
      (0x100000 + 8 * 16380 ≤ x.toNat ∧ x.toNat < 0x200000) ∨
      (0x200000 + 16 * 4 ≤ x.toNat ∧ x.toNat < 0x300000) ∨ 0x300000 + 8 * 4 ≤ x.toNat →
    step s = .next { s with moves := ms, rdata := 0 }

/-- R37: a read of a record at or beyond its count, or while BUSY of a register other than CONFIG, BUF_LEN, ARG0 to ARG2 and STATUS, returns a free value; STATUS is always exact.
The form of the free value, and that it takes CMD in, are the model's (log entries 4 and 12). -/
def Obligations.UnspecifiedReads : Prop :=
  ∀ (s : State) (x : RegIndex) (r : Reg) (ms : List Move), s.moves = .rd x :: ms →
    regAt x = some r →
    (((∃ j f, r = .frag j f ∧ s.results.frags.length ≤ j) ∨
      (∃ i f, r = .orbit i f ∧ s.results.orbits.length ≤ i) ∨
      (∃ e f, r = .err e f ∧ s.results.errs.length ≤ e) ∨
      (s.status.busy = true ∧ r ∉ [Reg.config, Reg.bufLen, Reg.arg0, Reg.arg1, Reg.arg2, Reg.status])) →
      step s = .next { s with
        moves := ms, rdata := Config.hostReadDraw s.draws, draws := s.draws + 1 }) ∧
    (r = .status → step s = .next { s with moves := ms, rdata := statusWord s.status })

/-- R37, R78: STATUS, CONFIG, BUF_LEN and ARG0 to ARG2 read exactly in every state, BUSY or not, and a read after a write returns the new value.
The list of moves and `rdata` are the model's (log entries 7 and 4). -/
def Obligations.ExactReads : Prop :=
  ∀ (s : State) (ms : List Move),
    (∀ p ∈ ([(1, statusWord s.status), (2, configWord s.config), (3, s.bufLen.setWidth 64),
        (4, s.arg0.setWidth 64), (5, s.arg1.setWidth 64), (6, s.arg2.setWidth 64)] :
        List (RegIndex × Word)),
      step { s with moves := .rd p.1 :: ms } = .next { s with moves := ms, rdata := p.2 }) ∧
    ∀ (x : RegIndex) (v : Word), s.moves = .wr x v :: .rd x :: ms →
      (x = 2 → ∃ t, Sys2Proof.core.run 2 s = .next t ∧ t.rdata.toNat = v.toNat % 4 ∧
        t.eng = s.eng ∧ t.status = s.status) ∧
      (x ∈ ([3, 4, 5, 6] : List RegIndex) → ∃ t, Sys2Proof.core.run 2 s = .next t ∧
        t.rdata.toNat = v.toNat % 2 ^ 32 ∧ t.eng = s.eng ∧ t.status = s.status)

/-- R22, R30 to R33: with no command running, each named register reads as what it holds, zero-extended. -/
def Obligations.NamedRegisterReads : Prop :=
  ∀ (s : State) (ms : List Move), s.status.busy = false →
    s.results.frags.length ≤ 16380 → s.results.orbits.length ≤ 4 → s.results.errs.length ≤ 4 →
    ∀ p ∈ ([(0x00, 0), (0x01, statusWord s.status), (0x02, configWord s.config),
      (0x03, s.bufLen.setWidth 64), (0x04, s.arg0.setWidth 64), (0x05, s.arg1.setWidth 64),
      (0x06, s.arg2.setWidth 64), (0x07, s.result), (0x08, s.hdr.version.setWidth 64),
      (0x09, s.hdr.sourceId.setWidth 64), (0x0A, s.hdr.runNumber.setWidth 64),
      (0x0B, s.hdr.orbitNumber.setWidth 64), (0x0C, s.hdr.eventCount.setWidth 64),
      (0x0D, s.hdr.packetWordCount.setWidth 64), (0x0E, s.hdr.flags.setWidth 64),
      (0x0F, s.hdr.checksum.setWidth 64), (0x10, s.hdr.cursor.setWidth 64),
      (0x11, s.trl.marker.setWidth 64), (0x12, s.trl.fragFlags.setWidth 64),
      (0x13, s.trl.fragSize.setWidth 64), (0x14, s.trl.eventId.setWidth 64),
      (0x15, s.trl.crc.setWidth 64), (0x16, BitVec.ofNat 64 s.results.frags.length),
      (0x17, BitVec.ofNat 64 s.results.orbits.length),
      (0x18, BitVec.ofNat 64 s.results.errs.length)] : List (RegIndex × Word)),
    step { s with moves := .rd p.1 :: ms } = .next { s with moves := ms, rdata := p.2 }

/-- R34, R35, R36: with no command running, the fields of a valid record read in the order of its layout. -/
def Obligations.RecordReads : Prop :=
  ∀ (s : State) (n : Nat) (ms : List Move), s.status.busy = false →
    (∀ r, n < 16380 → s.results.frags[n]? = some r →
      ∀ p ∈ ([(0, r.orbit.setWidth 64), (1, r.ordinal.setWidth 64), (2, r.payloadStart),
        (3, r.payloadSize), (4, r.fragSize.setWidth 64), (5, r.eventId.setWidth 64),
        (6, r.crc.setWidth 64), (7, r.fragFlags.setWidth 64)] : List (Nat × Word)),
      step { s with moves := .rd (BitVec.ofNat 24 (0x100000 + 8 * n + p.1)) :: ms } =
        .next { s with moves := ms, rdata := p.2 }) ∧
    (∀ r, n < 4 → s.results.orbits[n]? = some r →
      ∀ p ∈ ([(0, r.orbit.setWidth 64), (1, r.sliceStart.setWidth 64), (2, r.version.setWidth 64),
        (3, r.sourceId.setWidth 64), (4, r.runNumber.setWidth 64), (5, r.orbitNumber.setWidth 64),
        (6, r.eventCount.setWidth 64), (7, r.packetWordCount.setWidth 64),
        (8, r.flags.setWidth 64), (9, r.checksum.setWidth 64), (10, r.regionStart.setWidth 64),
        (11, r.regionEnd), (12, r.firstFrag.setWidth 64), (13, r.numFrags.setWidth 64),
        (14, (walkStatusCode r.walkStatus).setWidth 64), (15, r.finalCursor)] : List (Nat × Word)),
      step { s with moves := .rd (BitVec.ofNat 24 (0x200000 + 16 * n + p.1)) :: ms } =
        .next { s with moves := ms, rdata := p.2 }) ∧
    (∀ r, n < 4 → s.results.errs[n]? = some r →
      ∀ p ∈ ([(0, (errCode r.kind).setWidth 64), (1, r.orbit.setWidth 64),
        (2, r.ordinal.setWidth 64), (3, r.offset), (4, r.expected), (5, r.actual), (6, 0),
        (7, 0)] : List (Nat × Word)),
      step { s with moves := .rd (BitVec.ofNat 24 (0x300000 + 8 * n + p.1)) :: ms } =
        .next { s with moves := ms, rdata := p.2 })

/-- R150: the numeric codes of the error kinds, and WALK_STATUS 0 for a completed walk (R35). -/
def Obligations.ErrorCodes : Prop :=
  errCode .outOfBounds = 1 ∧ errCode .truncatedHeader = 2 ∧ errCode .badHeaderMarker = 3 ∧
  errCode .truncatedTrailer = 4 ∧ errCode .badTrailerMarker = 5 ∧ errCode .truncatedPayload = 6 ∧
  walkStatusCode none = 0 ∧ ∀ k, walkStatusCode (some k) = errCode k

/-- R50, R51, R63, R175: host writes of buffer bytes land where they are written and nowhere else, for the host's record of them and for what the engine reads.
The two stops are the model's: a write while BUSY has no move (log entry 9), a byte outside the window does not exist (log entry 8). -/
def Obligations.BufferWrites : Prop :=
  ∀ (s : State) (off : BitVec 32) (bs : List Byte) (ms : List Move), s.moves = .bytes off bs :: ms →
    (s.status.busy = true → step s = .refused .bufferWriteWhileBusy) ∧
    (s.status.busy = false → bs ≠ [] → s.bufCap.toNat < off.toNat + bs.length →
      step s = .fault .outsideBufferWindow) ∧
    (s.status.busy = false → off.toNat + bs.length ≤ s.bufCap.toNat →
      ∃ b, step s = .next { s with moves := ms, buf := b } ∧
        (∀ i (h : i < bs.length), b.lookup (off.toNat + i) = some bs[i]) ∧
        (∀ a, a < off.toNat ∨ off.toNat + bs.length ≤ a → b.lookup a = s.buf.lookup a) ∧
        ∀ v : EngineView, v.buf = b →
          (∀ i (h : i < bs.length), byteAt v (off.toNat + i) = bs[i]) ∧
          ∀ a, a < off.toNat ∨ off.toNat + bs.length ≤ a →
            byteAt v a = byteAt { v with buf := s.buf } a)

/-- R50, R63, R52: the engine reads the byte the host last wrote at that offset, from the buffer of the state.
A byte the host never wrote is a free value; that it is the one of the command's draw and the offset is the model's (log entry 3).
The last clause is the model's choice (log entry 14): `State.reset` is the machine at power-up, with no byte written, while R42 leaves the buffer unchanged by a reset. -/
def Obligations.EngineReadsHostBytes : Prop :=
  (∀ (v : EngineView) (a : Nat),
    (∀ b, v.buf.lookup a = some b → byteAt v a = b) ∧
    (v.buf.lookup a = none → byteAt v a = Config.unwrittenByte v.seed a)) ∧
  (∀ s : State, s.view.buf = s.buf ∧ s.view.seed = s.eng.seed) ∧
  ∀ a, State.reset.buf.lookup a = none

/-! ### Fields and markers -/

/-- R92: a value written as little-endian bytes is read back exactly, for every width. -/
def Obligations.FieldRoundTrip : Prop :=
  ∀ (v : EngineView) (n V a : Nat), n ∈ ([1, 2, 4, 8] : List Nat) → V < 2 ^ (8 * n) →
    a + n ≤ v.len →
    (∀ i, i < n → (byteAt v (a + i)).toNat = V / 2 ^ (8 * i) % 2 ^ 8) → memRead v a n = .ok V

/-- R54, R73, R93, R94: inside the buffer the marker test passes exactly when both bytes match the selected marker in order, and it answers the little-endian value of the two bytes; past the end it is OutOfBounds. -/
def Obligations.MarkerBytes : Prop :=
  ∀ (v : EngineView) (a : Nat) (which : MarkerSelect) (tmo : Bool),
    let bytes : Byte × Byte := match which, tmo with
      | .header, _ => (0x48, 0x4F)
      | .trailer, false => (0x48, 0x46)
      | .trailer, true => (0x46, 0x48)
    (a + 2 ≤ v.len → ∃ ok x, markerIs v a (expectedMarker which tmo) = .ok (ok, x) ∧
      (ok = true ↔ byteAt v a = bytes.1 ∧ byteAt v (a + 1) = bytes.2) ∧
      x.toNat = (byteAt v a).toNat + 256 * (byteAt v (a + 1)).toNat) ∧
    (v.len < a + 2 → markerIs v a (expectedMarker which tmo) = .error
      { kind := .outOfBounds, offset := a, expected := 2,
        actual := if a ≤ v.len then v.len - a else 0 })

/-- R56: the crc read is bits 63:48 of the 8-byte read that eventId's low 44 bits come from. -/
def Obligations.EventIdAndCrcShareBytes : Prop :=
  ∀ (v : EngineView) (t : Nat), t + 16 ≤ v.len →
    ∃ x y r, memRead v (t + 8) 8 = .ok x ∧ memRead v (t + 14) 2 = .ok y ∧ x / 2 ^ 48 = y ∧
      readTrailerFields v t = .ok r ∧ r.crc.toNat = y ∧ r.eventId.toNat = x % 2 ^ 44

/-- R123: the two payload formulas, exact. -/
def Obligations.PayloadFormulas : Prop :=
  ∀ f : BitVec 32, payloadBytes f false = f.toNat * 16 ∧
    payloadBytes f true = f.toNat * 16 / 128 ∧ payloadBytes f true = f.toNat / 8

/-! ### The standalone commands -/

/-- R91: LE_READ, in bounds and out of bounds; nothing else changes. -/
def Obligations.LeReadResult : Prop :=
  ∀ (s : State) (n : Nat), n ∈ ([1, 2, 4, 8] : List Nat) →
    (s.eng.a0.toNat + n ≤ s.eng.len.toNat →
      exec (.leRead n) s = .next { s with
        result := BitVec.ofNat 64 (fieldValue s.view s.eng.a0.toNat n)
        status := { s.status with err := !s.results.errs.isEmpty, busy := false, done := true }
        eng := { s.eng with phase := .idle } }) ∧
    (s.eng.len.toNat < s.eng.a0.toNat + n →
      exec (.leRead n) s = .next { s with
        result := 0
        results := { s.results with
          errs := s.results.errs ++ [outOfBoundsRec 0xFF 0xFFFF s.eng.len.toNat s.eng.a0.toNat n] }
        status := { s.status with err := true, busy := false, done := true }
        eng := { s.eng with phase := .idle } })

/-- R96: CHECK_MARKER compares the two bytes with the selected marker; a mismatch is no error. -/
def Obligations.CheckMarkerResult : Prop :=
  ∀ (s : State) (which : MarkerSelect),
    let expected := match which with
      | .header => 0x4F48
      | .trailer => trailerMarkerValue s.eng.tmo
    (s.eng.a0.toNat + 2 ≤ s.eng.len.toNat →
      exec (.checkMarker which) s = .next { s with
        result := if fieldValue s.view s.eng.a0.toNat 2 = expected then 1 else 0
        status := { s.status with err := !s.results.errs.isEmpty, busy := false, done := true }
        eng := { s.eng with phase := .idle } }) ∧
    (s.eng.len.toNat < s.eng.a0.toNat + 2 →
      exec (.checkMarker which) s = .next { s with
        result := 0
        results := { s.results with
          errs := s.results.errs ++ [outOfBoundsRec 0xFF 0xFFFF s.eng.len.toNat s.eng.a0.toNat 2] }
        status := { s.status with err := true, busy := false, done := true }
        eng := { s.eng with phase := .idle } })

/-- R101: SEGMENT writes the slice size and nothing else. -/
def Obligations.SegmentResult : Prop :=
  ∀ s : State, exec .segment s = .next { s with
    result := BitVec.ofNat 64 (s.eng.len.toNat / 4)
    status := { s.status with err := !s.results.errs.isEmpty, busy := false, done := true }
    eng := { s.eng with phase := .idle } }

/-- R112: PARSE_HEADER's three outcomes, in the order of its tests; nothing else changes. -/
def Obligations.ParseHeaderResult : Prop :=
  ∀ s : State,
    let a := s.eng.a0.toNat
    let L := s.eng.len.toNat
    (L < a + 32 →
      exec .parseHeader s = .next { s with
        results := { s.results with errs := s.results.errs ++ [truncatedHeaderRec 0xFF L a] }
        status := { s.status with err := true, busy := false, done := true }
        eng := { s.eng with phase := .idle } }) ∧
    (a + 32 ≤ L → fieldValue s.view a 2 ≠ 0x4F48 →
      exec .parseHeader s = .next { s with
        results := { s.results with
          errs := s.results.errs ++ [badHeaderMarkerRec 0xFF a (fieldValue s.view a 2)] }
        status := { s.status with err := true, busy := false, done := true }
        eng := { s.eng with phase := .idle } }) ∧
    (a + 32 ≤ L → fieldValue s.view a 2 = 0x4F48 →
      exec .parseHeader s = .next { s with
        hdr := headerAt s.view a
        status := { s.status with
          hdrValid := true, err := !s.results.errs.isEmpty, busy := false, done := true }
        eng := { s.eng with phase := .idle } })

/-- R113: the reserved bits of the eventCount field are ignored. -/
def Obligations.EventCountIgnoresReservedBits : Prop :=
  ∀ (s : State) (X R : Nat), X < 4096 → R < 2 ^ 20 → headerOk s.view s.eng.a0.toNat →
    fieldValue s.view (s.eng.a0.toNat + 16) 4 = X ||| (R <<< 12) →
    ∃ t, exec .parseHeader s = .next t ∧ t.hdr.eventCount.toNat = X ∧ t.status.hdrValid = true

/-- R131: PARSE_TRAILER's four outcomes, in the order of its tests; nothing else changes. -/
def Obligations.ParseTrailerResult : Prop :=
  ∀ s : State,
    let c := s.eng.a0.toNat
    let L := s.eng.len.toNat
    let failed : ErrRec → State := fun e => { s with
      result := 0
      results := { s.results with errs := s.results.errs ++ [e] }
      status := { s.status with err := true, busy := false, done := true }
      eng := { s.eng with phase := .idle } }
    (c < 16 → exec .parseTrailer s = .next (failed (truncatedTrailerRec 0xFF 0xFFFF c))) ∧
    (16 ≤ c → L < c → ∃ off n, firstFailingRead L (c - 16) = some (off, n) ∧
      exec .parseTrailer s = .next (failed (outOfBoundsRec 0xFF 0xFFFF L (c - 16 + off) n))) ∧
    (16 ≤ c → c ≤ L → fieldValue s.view (c - 16) 2 ≠ trailerMarkerValue s.eng.tmo →
      exec .parseTrailer s = .next (failed
        (badTrailerMarkerRec 0xFF 0xFFFF s.eng.tmo (c - 16) (fieldValue s.view (c - 16) 2)))) ∧
    (16 ≤ c → c ≤ L → fieldValue s.view (c - 16) 2 = trailerMarkerValue s.eng.tmo →
      exec .parseTrailer s = .next { s with
        trl := trailerAt s.view (c - 16)
        result := BitVec.ofNat 64
          (payloadSizeOf s.eng.psm (fieldValue s.view (c - 16 + 4) 4))
        status := { s.status with
          trlValid := true, err := !s.results.errs.isEmpty, busy := false, done := true }
        eng := { s.eng with phase := .idle } })

/-! ### The walk -/

/-- R153: one trailer step raises at most one error, in the document's order; otherwise it emits one descriptor and goes on from the payload start (R126). -/
def Obligations.WalkStepPriority : Prop :=
  ∀ (v : EngineView) (orb : BitVec 8) (k c : Nat),
    let t := c - 16
    let p := payloadSizeOf v.psm (fieldValue v (t + 4) 4)
    let w := walkFrom v orb (k + 1) c
    (c < 16 → w.frags = [] ∧ w.cursor = c ∧ w.stop = some (BitVec.ofNat 16 k,
      { kind := .truncatedTrailer, offset := c, expected := 16, actual := c })) ∧
    (16 ≤ c → v.len < c → ∃ off n, firstFailingRead v.len t = some (off, n) ∧
      w.frags = [] ∧ w.cursor = t ∧ w.stop = some (BitVec.ofNat 16 k,
        { kind := .outOfBounds, offset := t + off, expected := n,
          actual := if t + off ≤ v.len then v.len - (t + off) else 0 })) ∧
    (16 ≤ c → c ≤ v.len → fieldValue v t 2 ≠ trailerMarkerValue v.tmo →
      w.frags = [] ∧ w.cursor = t ∧ w.stop = some (BitVec.ofNat 16 k,
        { kind := .badTrailerMarker, offset := t, expected := trailerMarkerValue v.tmo,
          actual := fieldValue v t 2 })) ∧
    (16 ≤ c → c ≤ v.len → fieldValue v t 2 = trailerMarkerValue v.tmo → t < p →
      w.frags = [] ∧ w.cursor = t ∧ w.stop = some (BitVec.ofNat 16 k,
        { kind := .truncatedPayload, offset := t, expected := p, actual := t })) ∧
    (16 ≤ c → c ≤ v.len → fieldValue v t 2 = trailerMarkerValue v.tmo → p ≤ t →
      let rest := walkFrom v orb k (t - p)
      let r := trailerAt v t
      w.cursor = rest.cursor ∧ w.stop = rest.stop ∧
      w.frags = { orbit := orb, ordinal := BitVec.ofNat 16 k,
                  payloadStart := BitVec.ofNat 64 (t - p), payloadSize := BitVec.ofNat 64 p,
                  fragSize := r.fragSize, eventId := r.eventId, crc := r.crc,
                  fragFlags := r.fragFlags } :: rest.frags)

/-- R136: WALK runs the walk on its latched operands, keeps the descriptors, records the error that stopped it and reports the final cursor; nothing else changes. -/
def Obligations.WalkResult : Prop :=
  ∀ s : State,
    let w := walkFrom s.view 0xFF (s.eng.a2.toNat % 4096) (s.eng.a0.toNat + s.eng.a1.toNat * 16)
    let errs : List ErrRec := match w.stop with
      | none => []
      | some (ord, f) => [{ kind := f.kind, orbit := 0xFF, ordinal := ord,
                            offset := BitVec.ofNat 64 f.offset,
                            expected := BitVec.ofNat 64 f.expected,
                            actual := BitVec.ofNat 64 f.actual }]
    exec .walk s = .next { s with
      result := BitVec.ofNat 64 w.cursor
      results := { s.results with
        frags := s.results.frags ++ w.frags, errs := s.results.errs ++ errs }
      status := { s.status with
        err := !(s.results.errs ++ errs).isEmpty, busy := false, done := true }
      eng := { s.eng with phase := .idle } }

/-- R132: eventCount 0 performs no iteration, wherever the region ends. -/
def Obligations.WalkEventCountZero : Prop :=
  ∀ s : State, s.eng.a2.toNat % 4096 = 0 →
    exec .walk s = .next { s with
      result := BitVec.ofNat 64 (s.eng.a0.toNat + s.eng.a1.toNat * 16)
      status := { s.status with err := !s.results.errs.isEmpty, busy := false, done := true }
      eng := { s.eng with phase := .idle } }

/-- R134: a region end beyond the buffer stops the walk at the first read whose end passes `L`, with no descriptor. -/
def Obligations.WalkRegionBeyondBuffer : Prop :=
  ∀ s : State,
    let e := s.eng.a0.toNat + s.eng.a1.toNat * 16
    let ec := s.eng.a2.toNat % 4096
    0 < ec → 16 ≤ e → s.eng.len.toNat < e →
    ∃ off n, firstFailingRead s.eng.len.toNat (e - 16) = some (off, n) ∧
      exec .walk s = .next { s with
        result := BitVec.ofNat 64 (e - 16)
        results := { s.results with
          errs := s.results.errs ++
            [outOfBoundsRec 0xFF (BitVec.ofNat 16 (ec - 1)) s.eng.len.toNat (e - 16 + off) n] }
        status := { s.status with err := true, busy := false, done := true }
        eng := { s.eng with phase := .idle } }

/-- R135: on a well-formed region WALK emits exactly the region's fragments, from the highest ordinal down, and ends at the region start. -/
def Obligations.WalkWellFormedRegion : Prop :=
  ∀ (s : State) (count q : Nat), s.eng.psm = false → s.eng.a2.toNat % 4096 = count →
    s.eng.a1.toNat * 16 = count * (16 * q + 16) →
    wellFormedRegion s.view s.eng.a0.toNat count q →
    exec .walk s = .next { s with
      result := BitVec.ofNat 64 s.eng.a0.toNat
      results := { s.results with
        frags := s.results.frags ++
          (List.range count).reverse.map (regionFrag s.view 0xFF s.eng.a0.toNat q) }
      status := { s.status with err := !s.results.errs.isEmpty, busy := false, done := true }
      eng := { s.eng with phase := .idle } }

/-- R137: a damaged marker at ordinal `j` stops WALK exactly there; the higher ordinals are kept unchanged. -/
def Obligations.WalkCorruptedMarker : Prop :=
  ∀ (s : State) (count q j : Nat), s.eng.psm = false → s.eng.a2.toNat % 4096 = count →
    s.eng.a1.toNat * 16 = count * (16 * q + 16) → j < count →
    corruptedRegion s.view s.eng.a0.toNat count q j →
    exec .walk s = .next { s with
      result := BitVec.ofNat 64 (trailerStart s.eng.a0.toNat q j)
      results := { s.results with
        frags := s.results.frags ++
          (List.range' (j + 1) (count - (j + 1))).reverse.map
            (regionFrag s.view 0xFF s.eng.a0.toNat q)
        errs := s.results.errs ++
          [badTrailerMarkerRec 0xFF (BitVec.ofNat 16 j) s.eng.tmo (trailerStart s.eng.a0.toNat q j)
            (fieldValue s.view (trailerStart s.eng.a0.toNat q j) 2)] }
      status := { s.status with err := true, busy := false, done := true }
      eng := { s.eng with phase := .idle } }

/-- R128: ordinals count down from `ec - 1`, and each descriptor's trailer ends where the one before it begins, so PAYLOAD_START falls by at least 16. -/
def Obligations.WalkOrdinalsAndOffsets : Prop :=
  ∀ (v : EngineView) (orb : BitVec 8) (ec c : Nat), ec ≤ 4095 → c < 2 ^ 64 →
    ∀ (j : Nat) (r : FragRec), (walkFrom v orb ec c).frags[j]? = some r →
      j < ec ∧ r.orbit = orb ∧ r.ordinal.toNat = ec - 1 - j ∧
      ∀ r', (walkFrom v orb ec c).frags[j + 1]? = some r' →
        r'.ordinal.toNat < r.ordinal.toNat ∧
        r'.payloadStart.toNat + r'.payloadSize.toNat + 16 = r.payloadStart.toNat

/-- R129: a walk ends after `ec` descriptors with no error, or earlier with one fragment-level error at the ordinal that failed and the cursor of its kind. -/
def Obligations.WalkTermination : Prop :=
  ∀ (v : EngineView) (orb : BitVec 8) (ec c : Nat),
    let w := walkFrom v orb ec c
    match w.stop with
    | none => w.frags.length = ec
    | some (ord, f) =>
      w.frags.length < ec ∧ ord = BitVec.ofNat 16 (ec - 1 - w.frags.length) ∧
      ((f.kind = .truncatedTrailer ∧ w.cursor = f.offset) ∨
       (f.kind = .badTrailerMarker ∧ w.cursor = f.offset) ∨
       (f.kind = .truncatedPayload ∧ w.cursor = f.offset) ∨
       (f.kind = .outOfBounds ∧ ∃ d n, firstFailingRead v.len w.cursor = some (d, n) ∧
          f.offset = w.cursor + d ∧ f.expected = n))

/-! ### The whole-buffer decode -/

/-- R140: DECODE completes and writes only the result memories and the completion's STATUS fields. -/
def Obligations.DecodeFrame : Prop :=
  ∀ s : State, ∃ r : Results, exec .decode s = .next { s with
    results := r
    status := { s.status with err := !r.errs.isEmpty, busy := false, done := true }
    eng := { s.eng with phase := .idle } } ∧
    s.results.frags <+: r.frags ∧ s.results.orbits <+: r.orbits ∧ s.results.errs <+: r.errs

/-- With `L < 4` all slices are empty and start at 0 (R104), and with any `L < 32` the run ends at orbit 0 with one TruncatedHeader (R140's corner case). -/
def Obligations.DecodeShortBuffer : Prop :=
  ∀ s : State,
    (s.eng.len.toNat < 4 → sliceSize s.eng.len.toNat = 0 ∧
      ∀ i, i < 4 → sliceStart s.eng.len.toNat i = 0) ∧
    (s.eng.len.toNat < 32 → exec .decode s = .next { s with
      results := { s.results with
        errs := s.results.errs ++ [truncatedHeaderRec 0 s.eng.len.toNat 0] }
      status := { s.status with err := true, busy := false, done := true }
      eng := { s.eng with phase := .idle } })

/-- R142: a header failure in orbit `i` ends the run: its error record comes last, orbit `i` and the later ones leave no orbit record, and everything decoded before is kept as the first `i` orbits alone give it. -/
def Obligations.DecodeHeaderFailureEndsRun : Prop :=
  ∀ (s : State) (i : Nat), i < 4 →
    let L := s.eng.len.toNat
    let a := i * (L / 4)
    (∀ j, j < i → headerOk s.view (j * (L / 4))) → ¬ headerOk s.view a →
    let before := decodeOrbits s.view i 0 s.results
    ∃ t, exec .decode s = .next t ∧
      t.results.orbits.length = s.results.orbits.length + i ∧
      t.results.orbits = before.orbits ∧ t.results.frags = before.frags ∧
      t.results.errs = before.errs ++
        [if L < a + 32 then truncatedHeaderRec (BitVec.ofNat 8 i) L a
          else badHeaderMarkerRec (BitVec.ofNat 8 i) a (fieldValue s.view a 2)] ∧
      t.status.err = true ∧ t.status.done = true

/-- R141, R143: when the headers of the orbits up to `i` parse, orbit `i` gets its record and its walk's descriptors, and its walk's error if it has one, whether or not the walks before it or its own were stopped by an error. -/
def Obligations.DecodeRecordsOrbit : Prop :=
  ∀ (s : State) (i : Nat), i < 4 → s.results = .empty →
    let L := s.eng.len.toNat
    let a := i * (L / 4)
    (∀ j, j ≤ i → headerOk s.view (j * (L / 4))) →
    let h := headerAt s.view a
    let w := walkFrom s.view (BitVec.ofNat 8 i) h.eventCount.toNat
      (a + 32 + h.packetWordCount.toNat * 16)
    ∃ t first, exec .decode s = .next t ∧
      t.results.orbits[i]? = some
        { orbit := BitVec.ofNat 8 i, sliceStart := BitVec.ofNat 32 a, version := h.version,
          sourceId := h.sourceId, runNumber := h.runNumber, orbitNumber := h.orbitNumber,
          eventCount := h.eventCount, packetWordCount := h.packetWordCount, flags := h.flags,
          checksum := h.checksum, regionStart := BitVec.ofNat 32 (a + 32),
          regionEnd := BitVec.ofNat 64 (a + 32 + h.packetWordCount.toNat * 16),
          firstFrag := BitVec.ofNat 15 first, numFrags := BitVec.ofNat 13 w.frags.length,
          walkStatus := w.stop.map (fun e => e.2.kind),
          finalCursor := BitVec.ofNat 64 w.cursor } ∧
      first ≤ 4095 * i ∧
      (∀ j, j < w.frags.length → t.results.frags[first + j]? = w.frags[j]?) ∧
      (∀ ord f, w.stop = some (ord, f) →
        { kind := f.kind, orbit := BitVec.ofNat 8 i, ordinal := ord,
          offset := BitVec.ofNat 64 f.offset, expected := BitVec.ofNat 64 f.expected,
          actual := BitVec.ofNat 64 f.actual } ∈ t.results.errs)

/-- R144: one DECODE raises at most four errors and each orbit at most one: their orbits strictly rise. -/
def Obligations.DecodeErrorBound : Prop :=
  ∀ s : State, s.results = .empty → ∃ t, exec .decode s = .next t ∧
    t.results.errs.length ≤ 4 ∧ (∀ e ∈ t.results.errs, e.orbit.toNat < 4) ∧
    t.results.errs.Pairwise (fun e e' => e.orbit.toNat < e'.orbit.toNat)

/-- R146: record `n` is orbit `n`; the descriptors of the orbits follow one another without a gap, each orbit's in decreasing ordinal; the error records follow the orbits. -/
def Obligations.DecodeOutputOrder : Prop :=
  ∀ s : State, s.results = .empty → ∃ t, exec .decode s = .next t ∧
    (∀ n o, t.results.orbits[n]? = some o →
      n < 4 ∧ o.orbit.toNat = n ∧
      (n = 0 → o.firstFrag.toNat = 0) ∧
      (∀ o', t.results.orbits[n + 1]? = some o' →
        o'.firstFrag.toNat = o.firstFrag.toNat + o.numFrags.toNat) ∧
      (t.results.orbits[n + 1]? = none →
        t.results.frags.length = o.firstFrag.toNat + o.numFrags.toNat) ∧
      ∀ j, j < o.numFrags.toNat → ∃ f, t.results.frags[o.firstFrag.toNat + j]? = some f ∧
        f.orbit = o.orbit ∧ f.ordinal.toNat + 1 + j = o.eventCount.toNat) ∧
    (t.results.orbits = [] → t.results.frags = []) ∧
    t.results.errs.Pairwise (fun e e' => e.orbit.toNat < e'.orbit.toNat)

/-! ### All commands -/

/-- R76: every command completes, and completion sets ERR from ERR_COUNT, clears BUSY and sets DONE. -/
def Obligations.EveryCommandCompletes : Prop :=
  ∀ (i : Instr) (s : State), ∃ t, exec i s = .next t ∧
    (t.status.err = true ↔ 0 < t.results.errs.length) ∧ t.status.busy = false ∧
    t.status.done = true ∧ t.eng.phase = .idle

/-- The frame of every command (R30 to R33, R39, R40, R59): what each leaves unchanged, every byte of the buffer included. -/
def Obligations.CommandFrames : Prop :=
  ∀ (i : Instr) (s : State), ∃ t, exec i s = .next t ∧
    (∀ a, byteAt t.view a = byteAt s.view a) ∧ t.buf = s.buf ∧ t.bufCap = s.bufCap ∧
    t.config = s.config ∧ t.bufLen = s.bufLen ∧ t.arg0 = s.arg0 ∧ t.arg1 = s.arg1 ∧
    t.arg2 = s.arg2 ∧ t.moves = s.moves ∧ t.rdata = s.rdata ∧ t.draws = s.draws ∧
    t.eng = { s.eng with phase := .idle } ∧
    t.status.ill = s.status.ill ∧ t.status.illCause = s.status.illCause ∧
    t.status.ovr = s.status.ovr ∧
    (i ≠ .parseHeader → t.hdr = s.hdr ∧ t.status.hdrValid = s.status.hdrValid) ∧
    (i ≠ .parseTrailer → t.trl = s.trl ∧ t.status.trlValid = s.status.trlValid) ∧
    (i = .parseHeader ∨ i = .decode → t.result = s.result) ∧
    (i ≠ .walk → i ≠ .decode → t.results.frags = s.results.frags) ∧
    (i ≠ .decode → t.results.orbits = s.results.orbits) ∧
    (i = .segment → t.results = s.results)

/-- R51, R59: no command can tell two buffers apart that agree on `[0, L)`, whatever lies beyond or was never written there.
`seed` numbers the free values of never-written bytes (log entry 3). -/
def Obligations.NothingBeyondLengthIsRead : Prop :=
  ∀ (i : Instr) (s : State) (b : Memory) (n : Nat),
    agreeBelowLen s.view { s.view with buf := b, seed := n } →
    ∃ t, exec i s = .next t ∧
      exec i { s with buf := b, eng := { s.eng with seed := n } } =
        .next { t with buf := b, eng := { t.eng with seed := n } }

/-- R78: a running command never reads the live CONFIG, BUF_LEN or operand registers. -/
def Obligations.LatchedCopiesOnly : Prop :=
  ∀ (i : Instr) (s : State) (c : ConfigReg) (l x y z : BitVec 32),
    ∃ t, exec i s = .next t ∧
      exec i { s with config := c, bufLen := l, arg0 := x, arg1 := y, arg2 := z } =
        .next { t with config := c, bufLen := l, arg0 := x, arg1 := y, arg2 := z }

/-! ### The machine as a whole -/

/-- The invariant holds right after reset. -/
def Obligations.ResetInv : Prop := MachineInv State.reset

/-- Every step from a state that meets the invariant leads to one that meets it: the buffer's canonical form, BUSY and DONE never together, the capacities of the result memories, the ERR flag and the order of the orbit records (R25, R33, R76, R146). -/
def Obligations.StepKeepsInv : Prop := ∀ s t : State, MachineInv s → step s = .next t → MachineInv t

/-- R145: a machine that meets the invariant, with a host that keeps its duties, always takes a next step.
The duties are the stops of log entries 8 and 9. -/
def Obligations.NeverStops : Prop :=
  ∀ s : State, MachineInv s → hostKeepsDuty s = true → ∃ t, step s = .next t

/-- Only a host write of buffer bytes changes the buffer (R20, R50, R59).
That BUF_CAP is a field of State which no step changes is the model's choice (log entry 1), for the capacity that R9 and R51 leave OPEN. -/
def Obligations.OnlyHostChangesBuffer : Prop :=
  ∀ s t : State, step s = .next t →
    t.bufCap = s.bufCap ∧
    ((∀ off bs ms, s.moves ≠ .bytes off bs :: ms) → t.buf = s.buf)

/-- R31, R32, R177: HDR_* change only by a successful PARSE_HEADER or by reset, TRL_* only by a successful PARSE_TRAILER or by reset. -/
def Obligations.HeaderAndTrailerSurvive : Prop :=
  ∀ s t : State, step s = .next t →
    (t.hdr ≠ s.hdr → (∃ ms, s.moves = .rst :: ms) ∨
      (s.eng.phase = .run ∧ fetch s.eng = .ok .parseHeader ∧ t.status.hdrValid = true)) ∧
    (t.trl ≠ s.trl → (∃ ms, s.moves = .rst :: ms) ∨
      (s.eng.phase = .run ∧ fetch s.eng = .ok .parseTrailer ∧ t.status.trlValid = true))
end

