-- ==== Sys2Proof/Laws/State.lean ====
section
/-! SUPPORT. One lemma per field for each update of the state, so that no later proof unfolds a record update. -/

namespace Sys2Proof.Machine

@[simp] theorem complete_config (s : State) : (complete s).config = s.config := rfl
@[simp] theorem complete_bufLen (s : State) : (complete s).bufLen = s.bufLen := rfl
@[simp] theorem complete_arg0 (s : State) : (complete s).arg0 = s.arg0 := rfl
@[simp] theorem complete_arg1 (s : State) : (complete s).arg1 = s.arg1 := rfl
@[simp] theorem complete_arg2 (s : State) : (complete s).arg2 = s.arg2 := rfl
@[simp] theorem complete_result (s : State) : (complete s).result = s.result := rfl
@[simp] theorem complete_hdr (s : State) : (complete s).hdr = s.hdr := rfl
@[simp] theorem complete_trl (s : State) : (complete s).trl = s.trl := rfl
@[simp] theorem complete_results (s : State) : (complete s).results = s.results := rfl
@[simp] theorem complete_buf (s : State) : (complete s).buf = s.buf := rfl
@[simp] theorem complete_bufCap (s : State) : (complete s).bufCap = s.bufCap := rfl
@[simp] theorem complete_moves (s : State) : (complete s).moves = s.moves := rfl
@[simp] theorem complete_rdata (s : State) : (complete s).rdata = s.rdata := rfl
@[simp] theorem complete_draws (s : State) : (complete s).draws = s.draws := rfl

@[simp] theorem raise_status (orb : BitVec 8) (ord : BitVec 16) (f : Failure) (s : State) : (raise orb ord f s).status = s.status := rfl
@[simp] theorem raise_config (orb : BitVec 8) (ord : BitVec 16) (f : Failure) (s : State) : (raise orb ord f s).config = s.config := rfl
@[simp] theorem raise_bufLen (orb : BitVec 8) (ord : BitVec 16) (f : Failure) (s : State) : (raise orb ord f s).bufLen = s.bufLen := rfl
@[simp] theorem raise_arg0 (orb : BitVec 8) (ord : BitVec 16) (f : Failure) (s : State) : (raise orb ord f s).arg0 = s.arg0 := rfl
@[simp] theorem raise_arg1 (orb : BitVec 8) (ord : BitVec 16) (f : Failure) (s : State) : (raise orb ord f s).arg1 = s.arg1 := rfl
@[simp] theorem raise_arg2 (orb : BitVec 8) (ord : BitVec 16) (f : Failure) (s : State) : (raise orb ord f s).arg2 = s.arg2 := rfl
@[simp] theorem raise_result (orb : BitVec 8) (ord : BitVec 16) (f : Failure) (s : State) : (raise orb ord f s).result = s.result := rfl
@[simp] theorem raise_hdr (orb : BitVec 8) (ord : BitVec 16) (f : Failure) (s : State) : (raise orb ord f s).hdr = s.hdr := rfl
@[simp] theorem raise_trl (orb : BitVec 8) (ord : BitVec 16) (f : Failure) (s : State) : (raise orb ord f s).trl = s.trl := rfl
@[simp] theorem raise_eng (orb : BitVec 8) (ord : BitVec 16) (f : Failure) (s : State) : (raise orb ord f s).eng = s.eng := rfl
@[simp] theorem raise_buf (orb : BitVec 8) (ord : BitVec 16) (f : Failure) (s : State) : (raise orb ord f s).buf = s.buf := rfl
@[simp] theorem raise_bufCap (orb : BitVec 8) (ord : BitVec 16) (f : Failure) (s : State) : (raise orb ord f s).bufCap = s.bufCap := rfl
@[simp] theorem raise_moves (orb : BitVec 8) (ord : BitVec 16) (f : Failure) (s : State) : (raise orb ord f s).moves = s.moves := rfl
@[simp] theorem raise_rdata (orb : BitVec 8) (ord : BitVec 16) (f : Failure) (s : State) : (raise orb ord f s).rdata = s.rdata := rfl
@[simp] theorem raise_draws (orb : BitVec 8) (ord : BitVec 16) (f : Failure) (s : State) : (raise orb ord f s).draws = s.draws := rfl

@[simp] theorem illegal_config (cause : IllCause) (s : State) : (illegal cause s).config = s.config := rfl
@[simp] theorem illegal_bufLen (cause : IllCause) (s : State) : (illegal cause s).bufLen = s.bufLen := rfl
@[simp] theorem illegal_arg0 (cause : IllCause) (s : State) : (illegal cause s).arg0 = s.arg0 := rfl
@[simp] theorem illegal_arg1 (cause : IllCause) (s : State) : (illegal cause s).arg1 = s.arg1 := rfl
@[simp] theorem illegal_arg2 (cause : IllCause) (s : State) : (illegal cause s).arg2 = s.arg2 := rfl
@[simp] theorem illegal_result (cause : IllCause) (s : State) : (illegal cause s).result = s.result := rfl
@[simp] theorem illegal_hdr (cause : IllCause) (s : State) : (illegal cause s).hdr = s.hdr := rfl
@[simp] theorem illegal_trl (cause : IllCause) (s : State) : (illegal cause s).trl = s.trl := rfl
@[simp] theorem illegal_results (cause : IllCause) (s : State) : (illegal cause s).results = s.results := rfl
@[simp] theorem illegal_eng (cause : IllCause) (s : State) : (illegal cause s).eng = s.eng := rfl
@[simp] theorem illegal_buf (cause : IllCause) (s : State) : (illegal cause s).buf = s.buf := rfl
@[simp] theorem illegal_bufCap (cause : IllCause) (s : State) : (illegal cause s).bufCap = s.bufCap := rfl
@[simp] theorem illegal_moves (cause : IllCause) (s : State) : (illegal cause s).moves = s.moves := rfl
@[simp] theorem illegal_rdata (cause : IllCause) (s : State) : (illegal cause s).rdata = s.rdata := rfl
@[simp] theorem illegal_draws (cause : IllCause) (s : State) : (illegal cause s).draws = s.draws := rfl

@[simp] theorem overrun_config (s : State) : (overrun s).config = s.config := rfl
@[simp] theorem overrun_bufLen (s : State) : (overrun s).bufLen = s.bufLen := rfl
@[simp] theorem overrun_arg0 (s : State) : (overrun s).arg0 = s.arg0 := rfl
@[simp] theorem overrun_arg1 (s : State) : (overrun s).arg1 = s.arg1 := rfl
@[simp] theorem overrun_arg2 (s : State) : (overrun s).arg2 = s.arg2 := rfl
@[simp] theorem overrun_result (s : State) : (overrun s).result = s.result := rfl
@[simp] theorem overrun_hdr (s : State) : (overrun s).hdr = s.hdr := rfl
@[simp] theorem overrun_trl (s : State) : (overrun s).trl = s.trl := rfl
@[simp] theorem overrun_results (s : State) : (overrun s).results = s.results := rfl
@[simp] theorem overrun_eng (s : State) : (overrun s).eng = s.eng := rfl
@[simp] theorem overrun_buf (s : State) : (overrun s).buf = s.buf := rfl
@[simp] theorem overrun_bufCap (s : State) : (overrun s).bufCap = s.bufCap := rfl
@[simp] theorem overrun_moves (s : State) : (overrun s).moves = s.moves := rfl
@[simp] theorem overrun_rdata (s : State) : (overrun s).rdata = s.rdata := rfl
@[simp] theorem overrun_draws (s : State) : (overrun s).draws = s.draws := rfl

@[simp] theorem issue_config (v : Word) (s : State) : (issue v s).config = s.config := rfl
@[simp] theorem issue_bufLen (v : Word) (s : State) : (issue v s).bufLen = s.bufLen := rfl
@[simp] theorem issue_arg0 (v : Word) (s : State) : (issue v s).arg0 = s.arg0 := rfl
@[simp] theorem issue_arg1 (v : Word) (s : State) : (issue v s).arg1 = s.arg1 := rfl
@[simp] theorem issue_arg2 (v : Word) (s : State) : (issue v s).arg2 = s.arg2 := rfl
@[simp] theorem issue_result (v : Word) (s : State) : (issue v s).result = s.result := rfl
@[simp] theorem issue_hdr (v : Word) (s : State) : (issue v s).hdr = s.hdr := rfl
@[simp] theorem issue_trl (v : Word) (s : State) : (issue v s).trl = s.trl := rfl
@[simp] theorem issue_buf (v : Word) (s : State) : (issue v s).buf = s.buf := rfl
@[simp] theorem issue_bufCap (v : Word) (s : State) : (issue v s).bufCap = s.bufCap := rfl
@[simp] theorem issue_moves (v : Word) (s : State) : (issue v s).moves = s.moves := rfl
@[simp] theorem issue_rdata (v : Word) (s : State) : (issue v s).rdata = s.rdata := rfl

@[simp] theorem readStatus_status (s : State) : (readStatus s).status = s.status := rfl
@[simp] theorem readStatus_config (s : State) : (readStatus s).config = s.config := rfl
@[simp] theorem readStatus_bufLen (s : State) : (readStatus s).bufLen = s.bufLen := rfl
@[simp] theorem readStatus_arg0 (s : State) : (readStatus s).arg0 = s.arg0 := rfl
@[simp] theorem readStatus_arg1 (s : State) : (readStatus s).arg1 = s.arg1 := rfl
@[simp] theorem readStatus_arg2 (s : State) : (readStatus s).arg2 = s.arg2 := rfl
@[simp] theorem readStatus_result (s : State) : (readStatus s).result = s.result := rfl
@[simp] theorem readStatus_hdr (s : State) : (readStatus s).hdr = s.hdr := rfl
@[simp] theorem readStatus_trl (s : State) : (readStatus s).trl = s.trl := rfl
@[simp] theorem readStatus_results (s : State) : (readStatus s).results = s.results := rfl
@[simp] theorem readStatus_eng (s : State) : (readStatus s).eng = s.eng := rfl
@[simp] theorem readStatus_buf (s : State) : (readStatus s).buf = s.buf := rfl
@[simp] theorem readStatus_bufCap (s : State) : (readStatus s).bufCap = s.bufCap := rfl
@[simp] theorem readStatus_moves (s : State) : (readStatus s).moves = s.moves := rfl
@[simp] theorem readStatus_draws (s : State) : (readStatus s).draws = s.draws := rfl

@[simp] theorem complete_eng (s : State) : (complete s).eng = { s.eng with phase := .idle } := rfl
@[simp] theorem complete_view (s : State) : (complete s).view = s.view := rfl
@[simp] theorem complete_busy (s : State) : (complete s).status.busy = false := rfl
@[simp] theorem complete_done (s : State) : (complete s).status.done = true := rfl
@[simp] theorem complete_err (s : State) :
    (complete s).status.err = !s.results.errs.isEmpty := rfl
@[simp] theorem complete_ill (s : State) : (complete s).status.ill = s.status.ill := rfl
@[simp] theorem complete_ovr (s : State) : (complete s).status.ovr = s.status.ovr := rfl
@[simp] theorem complete_hdrValid (s : State) :
    (complete s).status.hdrValid = s.status.hdrValid := rfl
@[simp] theorem complete_trlValid (s : State) :
    (complete s).status.trlValid = s.status.trlValid := rfl
@[simp] theorem complete_illCause (s : State) :
    (complete s).status.illCause = s.status.illCause := rfl

@[simp] theorem raise_view (orb : BitVec 8) (ord : BitVec 16) (f : Failure) (s : State) :
    (raise orb ord f s).view = s.view := rfl
@[simp] theorem raise_frags (orb : BitVec 8) (ord : BitVec 16) (f : Failure) (s : State) :
    (raise orb ord f s).results.frags = s.results.frags := rfl
@[simp] theorem raise_orbits (orb : BitVec 8) (ord : BitVec 16) (f : Failure) (s : State) :
    (raise orb ord f s).results.orbits = s.results.orbits := rfl

@[simp] theorem illegal_busy (cause : IllCause) (s : State) :
    (illegal cause s).status.busy = s.status.busy := rfl
@[simp] theorem illegal_ill (cause : IllCause) (s : State) :
    (illegal cause s).status.ill = true := rfl
@[simp] theorem illegal_ovr (cause : IllCause) (s : State) :
    (illegal cause s).status.ovr = s.status.ovr := rfl

@[simp] theorem overrun_ovr (s : State) : (overrun s).status.ovr = true := rfl
@[simp] theorem overrun_busy (s : State) : (overrun s).status.busy = s.status.busy := rfl
@[simp] theorem overrun_done (s : State) : (overrun s).status.done = s.status.done := rfl

@[simp] theorem issue_results (v : Word) (s : State) : (issue v s).results = .empty := rfl
@[simp] theorem issue_busy (v : Word) (s : State) : (issue v s).status.busy = true := rfl
@[simp] theorem issue_done (v : Word) (s : State) : (issue v s).status.done = false := rfl
@[simp] theorem issue_ovr (v : Word) (s : State) : (issue v s).status.ovr = s.status.ovr := rfl
@[simp] theorem issue_phase (v : Word) (s : State) : (issue v s).eng.phase = .run := rfl
@[simp] theorem issue_len (v : Word) (s : State) : (issue v s).eng.len = s.bufLen := rfl
@[simp] theorem issue_draws (v : Word) (s : State) : (issue v s).draws = s.draws + 1 := rfl

@[simp] theorem resetCore_status (s : State) : (resetCore s).status = .reset := rfl
@[simp] theorem resetCore_config (s : State) : (resetCore s).config = .reset := rfl
@[simp] theorem resetCore_results (s : State) : (resetCore s).results = .empty := rfl
@[simp] theorem resetCore_eng (s : State) : (resetCore s).eng = .reset := rfl
@[simp] theorem resetCore_buf (s : State) : (resetCore s).buf = s.buf := rfl
@[simp] theorem resetCore_bufCap (s : State) : (resetCore s).bufCap = s.bufCap := rfl
@[simp] theorem resetCore_moves (s : State) : (resetCore s).moves = s.moves := rfl
@[simp] theorem resetCore_rdata (s : State) : (resetCore s).rdata = s.rdata := rfl
@[simp] theorem resetCore_draws (s : State) : (resetCore s).draws = s.draws := rfl

@[simp] theorem raiseIn_frags (orb : BitVec 8) (ord : BitVec 16) (f : Failure) (r : Results) :
    (raiseIn orb ord f r).frags = r.frags := rfl
@[simp] theorem raiseIn_orbits (orb : BitVec 8) (ord : BitVec 16) (f : Failure) (r : Results) :
    (raiseIn orb ord f r).orbits = r.orbits := rfl
@[simp] theorem raiseIn_errs (orb : BitVec 8) (ord : BitVec 16) (f : Failure) (r : Results) :
    (raiseIn orb ord f r).errs = r.errs ++
      [{ kind := f.kind, orbit := orb, ordinal := ord,
         offset := BitVec.ofNat 64 f.offset, expected := BitVec.ofNat 64 f.expected,
         actual := BitVec.ofNat 64 f.actual }] := rfl
@[simp] theorem emitFrags_frags (l : List FragRec) (r : Results) :
    (emitFrags l r).frags = r.frags ++ l := rfl
@[simp] theorem emitFrags_orbits (l : List FragRec) (r : Results) :
    (emitFrags l r).orbits = r.orbits := rfl
@[simp] theorem emitFrags_errs (l : List FragRec) (r : Results) :
    (emitFrags l r).errs = r.errs := rfl
@[simp] theorem emitOrbit_frags (o : OrbitRec) (r : Results) :
    (emitOrbit o r).frags = r.frags := rfl
@[simp] theorem emitOrbit_orbits (o : OrbitRec) (r : Results) :
    (emitOrbit o r).orbits = r.orbits ++ [o] := rfl
@[simp] theorem emitOrbit_errs (o : OrbitRec) (r : Results) :
    (emitOrbit o r).errs = r.errs := rfl
@[simp] theorem empty_frags : Results.empty.frags = [] := rfl
@[simp] theorem empty_orbits : Results.empty.orbits = [] := rfl
@[simp] theorem empty_errs : Results.empty.errs = [] := rfl

@[simp] theorem view_buf (s : State) : s.view.buf = s.buf := rfl
@[simp] theorem view_len (s : State) : s.view.len = s.eng.len.toNat := rfl
@[simp] theorem view_tmo (s : State) : s.view.tmo = s.eng.tmo := rfl
@[simp] theorem view_psm (s : State) : s.view.psm = s.eng.psm := rfl
@[simp] theorem view_seed (s : State) : s.view.seed = s.eng.seed := rfl

end Sys2Proof.Machine
end

