-- ==== Sys2Proof/Laws/Decode.lean ====
section
/-! SUPPORT. The command word and its fields: a word is its fields, and a word built from fields has them. -/

namespace Sys2Proof

/-- The bits of a command word, from its fields (R70). -/
theorem getLsbD_cmdWord (o : BitVec 8) (w : BitVec 2) (m : BitVec 1) (i : Nat) :
    (cmdWord o w m).getLsbD i =
      if i < 8 then o.getLsbD i
      else if i - 8 < 2 then w.getLsbD (i - 8)
      else if i - 8 - 2 < 1 then m.getLsbD (i - 8 - 2)
      else false := by
  simp only [cmdWord, BitVec.getLsbD_append]
  split_ifs <;> simp

@[simp] theorem cmdOpc_cmdWord (o : BitVec 8) (w : BitVec 2) (m : BitVec 1) :
    cmdOpc (cmdWord o w m) = o := by
  apply BitVec.eq_of_getLsbD_eq
  intro i hi
  simp only [cmdOpc, BitVec.getLsbD_extractLsb', getLsbD_cmdWord]
  simp [hi]

@[simp] theorem cmdW_cmdWord (o : BitVec 8) (w : BitVec 2) (m : BitVec 1) :
    cmdW (cmdWord o w m) = w := by
  apply BitVec.eq_of_getLsbD_eq
  intro i hi
  simp only [cmdW, BitVec.getLsbD_extractLsb', getLsbD_cmdWord]
  simp [hi]

@[simp] theorem cmdM_cmdWord (o : BitVec 8) (w : BitVec 2) (m : BitVec 1) :
    cmdM (cmdWord o w m) = m := by
  apply BitVec.eq_of_getLsbD_eq
  intro i hi
  have : i = 0 := by omega
  subst this
  simp only [cmdM, BitVec.getLsbD_extractLsb', getLsbD_cmdWord]
  simp

@[simp] theorem cmdRsv_cmdWord (o : BitVec 8) (w : BitVec 2) (m : BitVec 1) :
    cmdRsv (cmdWord o w m) = 0 := by
  apply BitVec.eq_of_getLsbD_eq
  intro i hi
  simp only [cmdRsv, BitVec.getLsbD_extractLsb', getLsbD_cmdWord]
  rw [if_neg (by omega), if_neg (by omega), if_neg (by omega)]
  simp

/-- A word whose reserved bits are 0 is the word of its fields (R70). -/
theorem cmdWord_fields (v : Word) (h : cmdRsv v = 0) :
    cmdWord (cmdOpc v) (cmdW v) (cmdM v) = v := by
  apply BitVec.eq_of_getLsbD_eq
  intro i hi
  have hr : ∀ j, j < 53 → v.getLsbD (11 + j) = false := by
    intro j hj
    have := congrArg (fun x : BitVec 53 => x.getLsbD j) h
    simpa [cmdRsv, hj] using this
  simp only [cmdWord, BitVec.getLsbD_append, cmdOpc, cmdW, cmdM, BitVec.getLsbD_extractLsb']
  split_ifs with h1 h2 h3
  · simp [h1]
  · simp [h2, show 8 + (i - 8) = i by omega]
  · have : i = 10 := by omega
    subst this; simp
  · have := hr (i - 11) (by omega)
    rw [show 11 + (i - 11) = i by omega] at this
    simp [this]

/-- A legal value has its reserved and inapplicable fields 0 (R75). -/
theorem decode_ok_iff (v : Word) (i : Instr) :
    decode v = .ok i ↔
      commandOf (cmdOpc v) (cmdW v) (cmdM v) = some i ∧ reservedFieldSet v = false := by
  rw [decode]
  cases h : commandOf (cmdOpc v) (cmdW v) (cmdM v) with
  | none => simp
  | some j =>
    cases hr : reservedFieldSet v <;> simp

theorem cmdRsv_of_not_reserved (v : Word) (h : reservedFieldSet v = false) : cmdRsv v = 0 := by
  simp only [reservedFieldSet, Bool.or_eq_false_iff] at h
  simpa using h.1.1

namespace Machine

/-- What the engine fetches after the issue of a legal value is that value's command (R40, R74). -/
theorem fetch_issue (v : Word) (s : State) (i : Instr) (h : decode v = .ok i) :
    fetch (issue v s).eng = .ok i := by
  have hr := cmdRsv_of_not_reserved v ((decode_ok_iff v i).1 h).2
  show decode (cmdWord (cmdOpc v) (cmdW v) (cmdM v)) = .ok i
  rw [cmdWord_fields v hr, h]

end Machine

/-- Every command a value decodes to is well-formed (R72, R80). -/
theorem wellFormed_of_decode (v : Word) (i : Instr) (h : decode v = .ok i) :
    i.wellFormed = true := by
  have hc := ((decode_ok_iff v i).1 h).1
  have hw : (widthOfCode (cmdW v)) ∈ Config.leWidths := by
    generalize cmdW v = w
    revert w; decide
  simp only [commandOf] at hc
  split_ifs at hc <;> cases hc <;> first | rfl | simpa [Instr.wellFormed] using hw

end Sys2Proof
end

