-- ==== Sys2Proof/Laws/Memory.lean ====
section
/-! SUPPORT. The laws of the buffer: a read after a write, and that every operation keeps the canonical form. -/

namespace Sys2Proof.Machine

theorem lookup_nil (a : Nat) : Memory.lookup [] a = none := rfl

theorem lookup_cons (c : Host.Cell) (cs : Memory) (a : Nat) :
    Memory.lookup (c :: cs) a = if c.1 = a then some c.2 else Memory.lookup cs a := rfl

/-- An offset below every listed one was never written. -/
theorem lookup_of_lt (m : Memory) (a : Nat) (h : ∀ c ∈ m, a < c.1) : m.lookup a = none := by
  induction m with
  | nil => rfl
  | cons c cs ih =>
    have hc := h c (by simp)
    rw [lookup_cons, if_neg (by omega)]
    exact ih (fun d hd => h d (List.mem_cons_of_mem _ hd))

theorem lookup_write_same (m : Memory) (a : Nat) (b : Byte) : (m.write a b).lookup a = some b := by
  induction m with
  | nil => simp [Memory.write, lookup_cons]
  | cons c cs ih =>
    simp only [Memory.write]
    split_ifs with h1 h2
    · simp [lookup_cons]
    · simp [lookup_cons]
    · rw [lookup_cons, if_neg (by omega), ih]

theorem lookup_write_other (m : Memory) (a a' : Nat) (b : Byte) (h : a' ≠ a) :
    (m.write a b).lookup a' = m.lookup a' := by
  induction m with
  | nil => simp [Memory.write, lookup_cons, lookup_nil, Ne.symm h]
  | cons c cs ih =>
    simp only [Memory.write]
    split_ifs with h1 h2
    · rw [lookup_cons, if_neg (Ne.symm h)]
    · rw [lookup_cons, lookup_cons, if_neg (Ne.symm h), if_neg (by omega)]
    · rw [lookup_cons, lookup_cons, ih]

/-- Every offset listed after a write is the written one or was listed before. -/
theorem mem_write (m : Memory) (a : Nat) (b : Byte) (c : Host.Cell) (h : c ∈ m.write a b) :
    c.1 = a ∨ c ∈ m := by
  induction m with
  | nil => simp_all [Memory.write]
  | cons d ds ih =>
    simp only [Memory.write] at h
    split_ifs at h with h1 h2
    · rcases List.mem_cons.1 h with rfl | h
      · exact .inl rfl
      · exact .inr h
    · rcases List.mem_cons.1 h with rfl | h
      · exact .inl rfl
      · exact .inr (List.mem_cons_of_mem _ h)
    · rcases List.mem_cons.1 h with rfl | h
      · exact .inr (by simp)
      · exact (ih h).imp id (List.mem_cons_of_mem _)

theorem write_wf (m : Memory) (a : Nat) (b : Byte) (h : m.wf) : (m.write a b).wf := by
  induction m with
  | nil => simp [Memory.write]
  | cons c cs ih =>
    have hc := List.pairwise_cons.1 h
    simp only [Memory.write]
    split_ifs with h1 h2
    · refine List.pairwise_cons.2 ⟨fun d hd => ?_, h⟩
      rcases List.mem_cons.1 hd with rfl | hd
      · exact h1
      · exact lt_trans h1 (hc.1 d hd)
    · exact List.pairwise_cons.2 ⟨fun d hd => by simpa [h2] using hc.1 d hd, hc.2⟩
    · refine List.pairwise_cons.2 ⟨fun d hd => ?_, ih hc.2⟩
      rcases mem_write cs a b d hd with hd | hd
      · rw [hd]; omega
      · exact hc.1 d hd

theorem writeBytes_wf (m : Memory) (a : Nat) (bs : List Byte) (h : m.wf) :
    (m.writeBytes a bs).wf := by
  induction bs generalizing m a with
  | nil => exact h
  | cons b bs ih => exact ih _ _ (write_wf m a b h)

theorem mem_writeBytes (m : Memory) (a : Nat) (bs : List Byte) (c : Host.Cell)
    (h : c ∈ m.writeBytes a bs) : (a ≤ c.1 ∧ c.1 < a + bs.length) ∨ c ∈ m := by
  induction bs generalizing m a with
  | nil => exact .inr h
  | cons b bs ih =>
    rcases ih _ _ h with ⟨h1, h2⟩ | h
    · exact .inl ⟨by omega, by simp; omega⟩
    · rcases mem_write m a b c h with h | h
      · exact .inl ⟨by omega, by simp; omega⟩
      · exact .inr h

/-- Bytes outside the written range read as before. -/
theorem lookup_writeBytes_outside (m : Memory) (a x : Nat) (bs : List Byte)
    (h : x < a ∨ a + bs.length ≤ x) : (m.writeBytes a bs).lookup x = m.lookup x := by
  induction bs generalizing m a with
  | nil => rfl
  | cons b bs ih =>
    have hl : (b :: bs).length = bs.length + 1 := rfl
    rw [Memory.writeBytes, ih _ _ (by omega), lookup_write_other _ _ _ _ (by omega)]

/-- Bytes inside the written range read as written. -/
theorem lookup_writeBytes_inside (m : Memory) (a i : Nat) (bs : List Byte) (h : i < bs.length) :
    (m.writeBytes a bs).lookup (a + i) = some bs[i] := by
  induction bs generalizing m a i with
  | nil => simp at h
  | cons b bs ih =>
    rw [Memory.writeBytes]
    cases i with
    | zero => simpa [lookup_write_same] using
        lookup_writeBytes_outside (m.write a b) (a + 1) a bs (.inl (by omega))
    | succ j =>
      have := ih (m.write a b) (a + 1) j (by simpa using h)
      rw [show a + (j + 1) = a + 1 + j by omega]
      simpa using this

/-- In the canonical form the listed cells are exactly the bytes that can be looked up. -/
theorem lookup_eq_some_iff (m : Memory) (h : m.wf) (a : Nat) (b : Byte) :
    m.lookup a = some b ↔ (a, b) ∈ m := by
  induction m with
  | nil => simp [lookup_nil]
  | cons c cs ih =>
    obtain ⟨ca, cb⟩ := c
    have hc := List.pairwise_cons.1 h
    rw [lookup_cons, List.mem_cons]
    split_ifs with h1
    · constructor
      · intro hb; exact .inl (by simp_all)
      · rintro (h2 | h2)
        · simp_all
        · have := hc.1 _ h2; simp_all
    · rw [ih hc.2]
      constructor
      · exact .inr
      · rintro (h2 | h2)
        · simp_all
        · exact h2

end Sys2Proof.Machine
end

