-- ==== Sys2Proof/Laws/Ops.lean ====
section
/-! SUPPORT. One lemma for each shared operation that says what it can do: field reads, marker tests, header and trailer parses. -/

namespace Sys2Proof.Machine

/-! ### Field reads -/

/-- The machine's field value is the spec's sum over the bytes (R53, R90). -/
theorem leField_eq (v : EngineView) (a n : Nat) : leField v a n = fieldValue v a n := by
  induction n with
  | zero => simp [leField, fieldValue]
  | succ n ih => rw [leField, ih, fieldValue, fieldValue, Finset.sum_range_succ]

theorem fieldValue_succ (v : EngineView) (a n : Nat) :
    fieldValue v a (n + 1) = fieldValue v a n + (byteAt v (a + n)).toNat * 2 ^ (8 * n) :=
  Finset.sum_range_succ _ _

theorem fieldValue_lt (v : EngineView) (a n : Nat) : fieldValue v a n < 2 ^ (8 * n) := by
  induction n with
  | zero => simp [fieldValue]
  | succ n ih =>
    have hb : (byteAt v (a + n)).toNat < 2 ^ 8 := (byteAt v (a + n)).isLt
    have h2 : (2 : Nat) ^ (8 * (n + 1)) = 2 ^ 8 * 2 ^ (8 * n) := by rw [← pow_add]; ring_nf
    rw [fieldValue_succ, h2]
    nlinarith

theorem fieldValue_congr (v w : EngineView) (a n : Nat)
    (h : ∀ i, i < n → byteAt v (a + i) = byteAt w (a + i)) :
    fieldValue v a n = fieldValue w a n :=
  Finset.sum_congr rfl fun i hi => by rw [h i (Finset.mem_range.1 hi)]

/-- MemRead past the end (R90). -/
theorem memRead_error (v : EngineView) (a n : Nat) (h : v.len < a + n) :
    memRead v a n = .error { kind := .outOfBounds, offset := a, expected := n,
                             actual := if a ≤ v.len then v.len - a else 0 } := if_pos h

/-- MemRead inside the buffer (R90). -/
theorem memRead_ok (v : EngineView) (a n : Nat) (h : a + n ≤ v.len) :
    memRead v a n = .ok (fieldValue v a n) := by
  rw [memRead, if_neg (by omega), leField_eq]

theorem and_evcMask (x : Nat) : x &&& Config.evcMask = x % 4096 :=
  Nat.and_two_pow_sub_one_eq_mod x 12

theorem and_eidMask (x : Nat) : x &&& Config.eidMask = x % 2 ^ 44 :=
  Nat.and_two_pow_sub_one_eq_mod x 44

/-! ### Marker tests -/

theorem ofNat16_toNat_fieldValue (v : EngineView) (a : Nat) :
    (BitVec.ofNat 16 (fieldValue v a 2)).toNat = fieldValue v a 2 := by
  have := fieldValue_lt v a 2
  simp only [BitVec.toNat_ofNat]
  exact Nat.mod_eq_of_lt (by simpa using this)

theorem ofNat16_fieldValue_eq (v : EngineView) (a : Nat) (e : BitVec 16) :
    BitVec.ofNat 16 (fieldValue v a 2) = e ↔ fieldValue v a 2 = e.toNat := by
  constructor
  · intro h; rw [← h, ofNat16_toNat_fieldValue]
  · intro h; rw [h]; simp

theorem markerIs_error (v : EngineView) (a : Nat) (e : BitVec 16) (h : v.len < a + 2) :
    markerIs v a e = .error { kind := .outOfBounds, offset := a, expected := 2,
                              actual := if a ≤ v.len then v.len - a else 0 } := by
  rw [markerIs, memRead_error v a 2 h]

theorem markerIs_ok (v : EngineView) (a : Nat) (e : BitVec 16) (h : a + 2 ≤ v.len) :
    markerIs v a e =
      .ok (decide (fieldValue v a 2 = e.toNat), BitVec.ofNat 16 (fieldValue v a 2)) := by
  rw [markerIs, memRead_ok v a 2 h]
  simp only [Except.ok.injEq, Prod.mk.injEq, and_true]
  rw [Bool.eq_iff_iff]
  simp [ofNat16_fieldValue_eq]

@[simp] theorem trlMarker_toNat (tmo : Bool) : (trlMarker tmo).toNat = trailerMarkerValue tmo := by
  cases tmo <;> rfl

/-! ### The header parse -/

/-- Behind the length test no read of the header fails (R111). -/
theorem readHeaderFields_ok (v : EngineView) (a : Nat) (h : a + 32 ≤ v.len) :
    readHeaderFields v a = .ok (headerAt v a) := by
  simp only [readHeaderFields, memRead_ok v (a + 2) 2 (by omega), memRead_ok v (a + 4) 4 (by omega),
    memRead_ok v (a + 8) 4 (by omega), memRead_ok v (a + 12) 4 (by omega),
    memRead_ok v (a + 16) 4 (by omega), memRead_ok v (a + 20) 4 (by omega),
    memRead_ok v (a + 24) 4 (by omega), memRead_ok v (a + 28) 4 (by omega), and_evcMask]
  rfl

/-- ParseHeader has three outcomes: too short, a wrong marker, or the header of the 32 bytes (R111). -/
theorem parseHeader_cases (v : EngineView) (a : Nat) :
    (v.len < a + 32 ∧
      parseHeader v a = .error { kind := .truncatedHeader, offset := a, expected := 32,
                                 actual := if a ≤ v.len then v.len - a else 0 }) ∨
    (a + 32 ≤ v.len ∧ fieldValue v a 2 ≠ 0x4F48 ∧
      parseHeader v a = .error { kind := .badHeaderMarker, offset := a, expected := 0x4F48,
                                 actual := fieldValue v a 2 }) ∨
    (headerOk v a ∧ parseHeader v a = .ok (headerAt v a)) := by
  by_cases h : v.len < a + 32
  · exact .inl ⟨h, if_pos h⟩
  · have hk : a + 32 ≤ v.len := by omega
    have hm := markerIs_ok v a Config.hdrMarker (by omega)
    refine .inr ?_
    rw [parseHeader, if_neg (show ¬ v.len < a + Config.hdrSize from h), hm]
    by_cases hv : fieldValue v a 2 = 0x4F48
    · refine .inr ⟨⟨hk, hv⟩, ?_⟩
      have : fieldValue v a 2 = Config.hdrMarker.toNat := hv
      simp only [this, decide_true]
      exact readHeaderFields_ok v a hk
    · refine .inl ⟨hk, hv, ?_⟩
      have : ¬ fieldValue v a 2 = Config.hdrMarker.toNat := hv
      simp only [this, decide_false, ofNat16_toNat_fieldValue]
      rfl

theorem parseHeader_ok_iff (v : EngineView) (a : Nat) (h : OrbitHeader) :
    parseHeader v a = .ok h ↔ headerOk v a ∧ h = headerAt v a := by
  rcases parseHeader_cases v a with ⟨h1, h2⟩ | ⟨h1, h2, h3⟩ | ⟨h1, h2⟩
  · rw [h2]; simp [headerOk]; omega
  · rw [h3]; simp [headerOk, h2]
  · rw [h2]; simp [h1, eq_comm]

/-! ### Completion and errors -/

/-- A standalone command that stops on an error, written out (R76, R156). -/
theorem stopWith_eq (f : Failure) (s : State) :
    stopWith f s = { s with
      results := { s.results with
        errs := s.results.errs ++
          [{ kind := f.kind, orbit := Config.noneOrb, ordinal := Config.noneOrd,
             offset := BitVec.ofNat 64 f.offset, expected := BitVec.ofNat 64 f.expected,
             actual := BitVec.ofNat 64 f.actual }] }
      status := { s.status with err := true, busy := false, done := true }
      eng := { s.eng with phase := .idle } } := by
  simp [stopWith, complete, statusAtCompletion, raise, raiseIn]

/-! ### The bytes at or beyond `L` are never read (R51) -/

theorem fieldValue_agree (v w : EngineView) (h : agreeBelowLen v w) (a n : Nat)
    (hl : a + n ≤ v.len) : fieldValue v a n = fieldValue w a n :=
  fieldValue_congr v w a n fun _ hi => h.2.2.2 _ (by omega)

theorem memRead_agree (v w : EngineView) (h : agreeBelowLen v w) (a n : Nat) :
    memRead v a n = memRead w a n := by
  by_cases hl : v.len < a + n
  · rw [memRead_error v a n hl, memRead_error w a n (h.1 ▸ hl), h.1]
  · rw [memRead_ok v a n (by omega), memRead_ok w a n (by rw [← h.1]; omega),
      fieldValue_agree v w h a n (by omega)]

/-! ### The trailer read -/

/-- The five reads succeed when the whole trailer lies in the buffer (R125). -/
theorem readTrailerFields_ok (v : EngineView) (t : Nat) (h : t + 16 ≤ v.len) :
    readTrailerFields v t = .ok (trailerAt v t) := by
  simp only [readTrailerFields, trailerRead, memRead_ok v (t + 0) 2 (by omega),
    memRead_ok v (t + 2) 2 (by omega), memRead_ok v (t + 4) 4 (by omega),
    memRead_ok v (t + 8) 8 (by omega), memRead_ok v (t + 14) 2 (by omega), and_eidMask]
  rfl

/-- Otherwise the first read whose end passes `L` raises OutOfBounds (R125, R153). -/
theorem readTrailerFields_error (v : EngineView) (t : Nat) (h : v.len < t + 16) :
    ∃ off n, firstFailingRead v.len t = some (off, n) ∧
      readTrailerFields v t = .error
        { failure := { kind := .outOfBounds, offset := t + off, expected := n,
                       actual := if t + off ≤ v.len then v.len - (t + off) else 0 },
          cursor := t } := by
  by_cases h0 : v.len < t + 0 + 2
  · refine ⟨0, 2, ?_, ?_⟩
    · simp [firstFailingRead, trailerReads, h0]
    · simp only [readTrailerFields, trailerRead, memRead_error v (t + 0) 2 h0]; rfl
  have k0 := memRead_ok v (t + 0) 2 (by omega)
  by_cases h1 : v.len < t + 2 + 2
  · refine ⟨2, 2, ?_, ?_⟩
    · simp [firstFailingRead, trailerReads, h1]; omega
    · simp only [readTrailerFields, trailerRead, k0, memRead_error v (t + 2) 2 h1]; rfl
  have k1 := memRead_ok v (t + 2) 2 (by omega)
  by_cases h2 : v.len < t + 4 + 4
  · refine ⟨4, 4, ?_, ?_⟩
    · simp [firstFailingRead, trailerReads, h2]; omega
    · simp only [readTrailerFields, trailerRead, k0, k1, memRead_error v (t + 4) 4 h2]; rfl
  have k2 := memRead_ok v (t + 4) 4 (by omega)
  have h3 : v.len < t + 8 + 8 := by omega
  refine ⟨8, 8, ?_, ?_⟩
  · simp [firstFailingRead, trailerReads, h3]; omega
  · simp only [readTrailerFields, trailerRead, k0, k1, k2, memRead_error v (t + 8) 8 h3]; rfl

/-- ReadTrailer has four outcomes, in the priority of R153. -/
theorem readTrailer_cases (v : EngineView) (c : Nat) :
    (c < 16 ∧ readTrailer v c = .error
        { failure := { kind := .truncatedTrailer, offset := c, expected := 16, actual := c },
          cursor := c }) ∨
    (16 ≤ c ∧ v.len < c ∧ ∃ off n, firstFailingRead v.len (c - 16) = some (off, n) ∧
      readTrailer v c = .error
        { failure := { kind := .outOfBounds, offset := c - 16 + off, expected := n,
                       actual := if c - 16 + off ≤ v.len then v.len - (c - 16 + off) else 0 },
          cursor := c - 16 }) ∨
    (16 ≤ c ∧ c ≤ v.len ∧ fieldValue v (c - 16) 2 ≠ trailerMarkerValue v.tmo ∧
      readTrailer v c = .error
        { failure := { kind := .badTrailerMarker, offset := c - 16,
                       expected := trailerMarkerValue v.tmo,
                       actual := fieldValue v (c - 16) 2 },
          cursor := c - 16 }) ∨
    (16 ≤ c ∧ c ≤ v.len ∧ fieldValue v (c - 16) 2 = trailerMarkerValue v.tmo ∧
      readTrailer v c = .ok (trailerAt v (c - 16))) := by
  by_cases h : c < 16
  · exact .inl ⟨h, if_pos h⟩
  refine .inr ?_
  have hc : 16 ≤ c := by omega
  rw [readTrailer, if_neg (show ¬ c < Config.trlSize from h)]
  have ht : Config.trlSize = 16 := rfl
  rw [ht]
  by_cases hl : v.len < c
  · obtain ⟨off, n, hf, hr⟩ := readTrailerFields_error v (c - 16) (by omega)
    exact .inl ⟨hc, hl, off, n, hf, by rw [hr]⟩
  · refine .inr ?_
    rw [readTrailerFields_ok v (c - 16) (by omega)]
    have hm : (trailerAt v (c - 16)).marker = BitVec.ofNat 16 (fieldValue v (c - 16) 2) := rfl
    by_cases hv : fieldValue v (c - 16) 2 = trailerMarkerValue v.tmo
    · refine .inr ⟨hc, by omega, hv, ?_⟩
      have : (trailerAt v (c - 16)).marker = trlMarker v.tmo := by
        rw [hm, ofNat16_fieldValue_eq, trlMarker_toNat, hv]
      simp [this]
    · refine .inl ⟨hc, by omega, hv, ?_⟩
      have : ¬ (trailerAt v (c - 16)).marker = trlMarker v.tmo := by
        rw [hm, ofNat16_fieldValue_eq, trlMarker_toNat]; exact hv
      refine (if_neg this).trans ?_
      simp only [hm, ofNat16_toNat_fieldValue, trlMarker_toNat]

theorem fragSize_trailerAt (v : EngineView) (t : Nat) :
    (trailerAt v t).fragSize.toNat = fieldValue v (t + 4) 4 := by
  have := fieldValue_lt v (t + 4) 4
  simp only [trailerAt, BitVec.toNat_ofNat]
  exact Nat.mod_eq_of_lt (by simpa using this)

theorem payloadBytes_eq (f : BitVec 32) (psm : Bool) :
    payloadBytes f psm = payloadSizeOf psm f.toNat := by cases psm <;> rfl

end Sys2Proof.Machine
end

