-- ==== Sys2Proof/Laws/PerInstr.lean ====
section
/-! SUPPORT. The statements about commands as syntax, made for each command: the round trip of the encoder (R70 to R73). -/

namespace Sys2Proof.Laws.RoundTrip

/-- Decoding the encoded word of a well-formed command gives the command back. -/
def Statement (i : Instr) : Prop := i.wellFormed = true → decode (encode i) = .ok i

theorem leRead (width : Nat) : Statement (.leRead width) := by
  intro h
  have h4 : width = 1 ∨ width = 2 ∨ width = 4 ∨ width = 8 := by
    simpa [Instr.wellFormed, Config.leWidths] using h
  rcases h4 with rfl | rfl | rfl | rfl <;> decide

theorem checkMarker (which : MarkerSelect) : Statement (.checkMarker which) := by
  intro _; cases which <;> decide

theorem segment : Statement .segment := by intro _; decide
theorem parseHeader : Statement .parseHeader := by intro _; decide
theorem parseTrailer : Statement .parseTrailer := by intro _; decide
theorem walk : Statement .walk := by intro _; decide
theorem decode : Statement .decode := by intro _; decide

end Sys2Proof.Laws.RoundTrip
end

