-- ==== Sys2Proof/Laws/Walk.lean ====
section
/-! SUPPORT. What one iteration of the walk and one orbit of the decode can do, and the bounds on their output. -/

namespace Sys2Proof.Machine

@[simp] theorem walkFrom_zero (v : EngineView) (orb : BitVec 8) (cur : Nat) :
    walkFrom v orb 0 cur = { frags := [], stop := none, cursor := cur } := rfl

/-- An iteration whose trailer read fails stops the walk (R126, R129). -/
theorem walkFrom_stop (v : EngineView) (orb : BitVec 8) (k cur : Nat) (e : WalkStop)
    (h : readTrailer v cur = .error e) :
    walkFrom v orb (k + 1) cur =
      { frags := [], stop := some (BitVec.ofNat 16 k, e.failure), cursor := e.cursor } := by
  rw [walkFrom, h]

/-- An iteration whose payload does not fit stops the walk (R126, R127). -/
theorem walkFrom_truncated (v : EngineView) (orb : BitVec 8) (k cur : Nat) (r : FragmentTrailer)
    (h : readTrailer v cur = .ok r) (hp : cur - 16 < payloadBytes r.fragSize v.psm) :
    walkFrom v orb (k + 1) cur =
      { frags := [],
        stop := some (BitVec.ofNat 16 k,
          { kind := .truncatedPayload, offset := cur - 16,
            expected := payloadBytes r.fragSize v.psm, actual := cur - 16 }),
        cursor := cur - 16 } := by
  rw [walkFrom, h]
  exact if_pos hp

/-- Any other iteration emits one descriptor and goes on from the payload start (R126). -/
theorem walkFrom_emit (v : EngineView) (orb : BitVec 8) (k cur : Nat) (r : FragmentTrailer)
    (h : readTrailer v cur = .ok r) (hp : payloadBytes r.fragSize v.psm ≤ cur - 16) :
    walkFrom v orb (k + 1) cur =
      { walkFrom v orb k (cur - 16 - payloadBytes r.fragSize v.psm) with
        frags := fragRecOf orb k (cur - 16 - payloadBytes r.fragSize v.psm)
            (payloadBytes r.fragSize v.psm) r
          :: (walkFrom v orb k (cur - 16 - payloadBytes r.fragSize v.psm)).frags } := by
  rw [walkFrom, h]
  exact if_neg (by simpa [Config.trlSize] using hp)

/-- One iteration stops the walk with an error, or emits one descriptor (R126). -/
theorem walkFrom_succ_cases (v : EngineView) (orb : BitVec 8) (k cur : Nat) :
    (∃ f c, walkFrom v orb (k + 1) cur =
        { frags := [], stop := some (BitVec.ofNat 16 k, f), cursor := c }) ∨
    (∃ r, readTrailer v cur = .ok r ∧ payloadBytes r.fragSize v.psm ≤ cur - 16 ∧
      walkFrom v orb (k + 1) cur =
        { walkFrom v orb k (cur - 16 - payloadBytes r.fragSize v.psm) with
          frags := fragRecOf orb k (cur - 16 - payloadBytes r.fragSize v.psm)
              (payloadBytes r.fragSize v.psm) r
            :: (walkFrom v orb k (cur - 16 - payloadBytes r.fragSize v.psm)).frags }) := by
  cases h : readTrailer v cur with
  | error e => exact .inl ⟨_, _, walkFrom_stop v orb k cur e h⟩
  | ok r =>
    by_cases hp : cur - 16 < payloadBytes r.fragSize v.psm
    · exact .inl ⟨_, _, walkFrom_truncated v orb k cur r h hp⟩
    · exact .inr ⟨r, rfl, by omega, walkFrom_emit v orb k cur r h (by omega)⟩

/-- A walk emits at most as many descriptors as it looks for (R133). -/
theorem walkFrom_frags_length_le (v : EngineView) (orb : BitVec 8) (k cur : Nat) :
    (walkFrom v orb k cur).frags.length ≤ k := by
  induction k generalizing cur with
  | zero => simp
  | succ k ih =>
    rcases walkFrom_succ_cases v orb k cur with ⟨f, c, h⟩ | ⟨r, -, -, h⟩
    · simp [h]
    · rw [h]; simpa using ih _

theorem commitWalk_frags (orb : BitVec 8) (w : WalkResult) (r : Results) :
    (commitWalk orb w r).frags = r.frags ++ w.frags := by
  rw [commitWalk]; split <;> rfl

theorem commitWalk_orbits (orb : BitVec 8) (w : WalkResult) (r : Results) :
    (commitWalk orb w r).orbits = r.orbits := by
  rw [commitWalk]; split <;> rfl

/-- A walk leaves at most one error record (R129). -/
theorem commitWalk_errs_length_le (orb : BitVec 8) (w : WalkResult) (r : Results) :
    (commitWalk orb w r).errs.length ≤ r.errs.length + 1 := by
  rw [commitWalk]; split <;> simp

/-- One orbit of the decode either ends the run with one header error, or is walked and recorded (R141, R142). -/
theorem decodeOrbits_succ_cases (v : EngineView) (n i : Nat) (r : Results) :
    (∃ f, parseHeader v (sliceStart v.len i) = .error f ∧
      decodeOrbits v (n + 1) i r = raiseIn (BitVec.ofNat 8 i) Config.noneOrd f r) ∨
    (∃ h, parseHeader v (sliceStart v.len i) = .ok h ∧
      decodeOrbits v (n + 1) i r =
        decodeOrbits v n (i + 1)
          (emitOrbit (orbitRecOf i (sliceStart v.len i) h r.frags.length (walkOrbit v i h))
            (commitWalk (BitVec.ofNat 8 i) (walkOrbit v i h) r))) := by
  cases hp : parseHeader v (sliceStart v.len i) with
  | error f => exact .inl ⟨f, rfl, by rw [decodeOrbits, hp]⟩
  | ok h => exact .inr ⟨h, rfl, by rw [decodeOrbits, hp]⟩

/-- The bounds of one decode (R33, R144): at most 4095 descriptors, one record and one error for each orbit. -/
theorem decodeOrbits_bounds (v : EngineView) (n i : Nat) (r : Results) :
    (decodeOrbits v n i r).frags.length ≤ r.frags.length + Config.maxEvents * n ∧
      (decodeOrbits v n i r).orbits.length ≤ r.orbits.length + n ∧
      (decodeOrbits v n i r).errs.length ≤ r.errs.length + n := by
  induction n generalizing i r with
  | zero => simp [decodeOrbits]
  | succ n ih =>
    rcases decodeOrbits_succ_cases v n i r with ⟨f, -, h⟩ | ⟨hd, -, h⟩
    · rw [h]; simp [Config.maxEvents]
    · rw [h]
      have hb := ih (i + 1)
        (emitOrbit (orbitRecOf i (sliceStart v.len i) hd r.frags.length (walkOrbit v i hd))
          (commitWalk (BitVec.ofNat 8 i) (walkOrbit v i hd) r))
      have hw : (walkOrbit v i hd).frags.length ≤ 4095 := by
        have h1 := walkFrom_frags_length_le v (BitVec.ofNat 8 i) hd.eventCount.toNat
          (regionEnd hd.cursor.toNat hd.packetWordCount.toNat)
        have h2 := hd.eventCount.isLt
        exact le_trans h1 (by omega)
      have he := commitWalk_errs_length_le (BitVec.ofNat 8 i) (walkOrbit v i hd) r
      simp only [emitOrbit_frags, emitOrbit_orbits, emitOrbit_errs, commitWalk_frags,
        commitWalk_orbits, List.length_append, List.length_singleton, Config.maxEvents] at hb ⊢
      refine ⟨?_, ?_, ?_⟩ <;> omega

end Sys2Proof.Machine
end

