-- ==== Sys2Proof/Laws/Step.lean ====
section
/-! SUPPORT. What a command and a step can do, said once: every command completes, and each move has one form of next state. -/

namespace Sys2Proof.Machine

/-- Every command answers a next state that is the completion of a state with only its own outputs changed (R41, R76). -/
theorem exec_completes (i : Instr) (s : State) :
    ∃ res hdr trl hv tv r, exec i s = .next (complete { s with
      result := res, hdr := hdr, trl := trl, results := r,
      status := { s.status with hdrValid := hv, trlValid := tv } }) := by
  cases i with
  | leRead n =>
    simp only [exec, execLeRead]
    split
    · exact ⟨_, s.hdr, s.trl, s.status.hdrValid, s.status.trlValid, _, rfl⟩
    · exact ⟨_, s.hdr, s.trl, s.status.hdrValid, s.status.trlValid, s.results, rfl⟩
  | checkMarker m =>
    simp only [exec, execCheckMarker]
    split
    · exact ⟨_, s.hdr, s.trl, s.status.hdrValid, s.status.trlValid, _, rfl⟩
    · exact ⟨_, s.hdr, s.trl, s.status.hdrValid, s.status.trlValid, s.results, rfl⟩
  | segment => exact ⟨_, s.hdr, s.trl, s.status.hdrValid, s.status.trlValid, s.results, rfl⟩
  | parseHeader =>
    simp only [exec, execParseHeader]
    split
    · exact ⟨s.result, s.hdr, s.trl, s.status.hdrValid, s.status.trlValid, _, rfl⟩
    · exact ⟨s.result, _, s.trl, true, s.status.trlValid, s.results, rfl⟩
  | parseTrailer =>
    simp only [exec, execParseTrailer]
    split
    · exact ⟨_, s.hdr, s.trl, s.status.hdrValid, s.status.trlValid, _, rfl⟩
    · exact ⟨_, s.hdr, _, s.status.hdrValid, true, s.results, rfl⟩
  | walk => exact ⟨_, s.hdr, s.trl, s.status.hdrValid, s.status.trlValid, _, rfl⟩
  | decode => exact ⟨s.result, s.hdr, s.trl, s.status.hdrValid, s.status.trlValid, _, rfl⟩

/-- What the engine's turn can do (R41, R165). -/
theorem engineStep_cases (s : State) :
    (s.eng.phase = .idle ∧ engineStep s = .next s) ∨
    (s.eng.phase = .run ∧ ∃ i, fetch s.eng = .ok i ∧ engineStep s = exec i s) ∨
    (s.eng.phase = .run ∧ ∃ c, fetch s.eng = .error c ∧
      engineStep s = .refused .noLegalCommandLatched) := by
  cases hp : s.eng.phase with
  | idle => exact .inl ⟨rfl, by simp [engineStep, hp]⟩
  | run =>
    cases hf : fetch s.eng with
    | ok i => exact .inr (.inl ⟨rfl, i, rfl, by simp [engineStep, hp, hf]⟩)
    | error c => exact .inr (.inr ⟨rfl, c, rfl, by simp [engineStep, hp, hf]⟩)

/-- What one step can do: the next move, or the engine's turn (R20). -/
theorem step_cases (s : State) :
    (s.moves = [] ∧ step s = engineStep s) ∨
    (∃ ms, s.moves = .engine :: ms ∧ step s = engineStep { s with moves := ms }) ∨
    (∃ ms, s.moves = .wait :: ms ∧ step s = waitStep ms s) ∨
    (∃ x v ms, s.moves = .wr x v :: ms ∧ step s = .next (hostWrite x v { s with moves := ms })) ∨
    (∃ x ms, s.moves = .rd x :: ms ∧ step s = .next (hostRead x { s with moves := ms })) ∨
    (∃ o bs ms, s.moves = .bytes o bs :: ms ∧ step s = hostBytes o bs { s with moves := ms }) ∨
    (∃ ms, s.moves = .rst :: ms ∧ step s = .next (resetCore { s with moves := ms })) := by
  unfold step
  cases hm : s.moves with
  | nil => simp
  | cons m ms => cases m <;> simp

/-- What a CMD write can do (R155). -/
theorem cmdWrite_cases (v : Word) (s : State) :
    (s.status.busy = true ∧ cmdWrite v s = overrun s) ∨
    (s.status.busy = false ∧ ∃ c, decode v = .error c ∧ cmdWrite v s = illegal c s) ∨
    (s.status.busy = false ∧ (∃ i, decode v = .ok i) ∧ s.bufCap < s.bufLen ∧
      cmdWrite v s = illegal .bufLen s) ∨
    (s.status.busy = false ∧ (∃ i, decode v = .ok i) ∧ s.bufLen ≤ s.bufCap ∧
      cmdWrite v s = issue v s) := by
  unfold cmdWrite
  cases hb : s.status.busy with
  | true => simp
  | false =>
    cases hd : decode v with
    | error c => simp
    | ok i =>
      by_cases hl : s.bufCap < s.bufLen
      · simp [hl]
      · simp [hl, BitVec.not_lt.1 hl]

/-- A host read changes only what the host has read, and the count of the draws (R21, R37). -/
theorem hostRead_frame (x : RegIndex) (s : State) :
    ∃ v n, hostRead x s = { s with rdata := v, draws := n } := by
  unfold hostRead
  split
  · exact ⟨_, s.draws, rfl⟩
  · split
    · exact ⟨_, s.draws, rfl⟩
    · exact ⟨_, _, rfl⟩

/-- A register that R37 calls exact reads as what it holds, BUSY or not. -/
theorem hostRead_exact (x : RegIndex) (r : Reg) (v : Word) (s : State) (hx : regAt x = some r)
    (he : exactWhileBusy r = true) (hv : heldValue s r = some v) :
    hostRead x s = { s with rdata := v } := by
  simp [hostRead, hx, specifiedValue, he, hv]

/-- What a host register write can do (R21): a CMD write, or a change of STATUS.OVR, CONFIG, BUF_LEN or an operand. -/
theorem hostWrite_cases (x : RegIndex) (v : Word) (s : State) :
    (regAt x = some .cmd ∧ hostWrite x v s = cmdWrite v s) ∨
    (regAt x ≠ some .cmd ∧ ∃ o c l p q r, (o = true → s.status.ovr = true) ∧
      hostWrite x v s = { s with
        status := { s.status with ovr := o }, config := c, bufLen := l, arg0 := p, arg1 := q,
        arg2 := r }) := by
  unfold hostWrite
  cases hx : regAt x with
  | none => exact .inr ⟨by simp, s.status.ovr, s.config, s.bufLen, s.arg0, s.arg1, s.arg2, id, rfl⟩
  | some g =>
    by_cases hg : g = .cmd
    · subst hg; exact .inl ⟨rfl, rfl⟩
    · refine .inr ⟨by simpa using hg, ?_⟩
      cases g with
      | cmd => exact absurd rfl hg
      | status =>
        exact ⟨_, s.config, s.bufLen, s.arg0, s.arg1, s.arg2,
          fun h => (Bool.and_eq_true _ _ ▸ h).1, rfl⟩
      | config => exact ⟨s.status.ovr, _, s.bufLen, s.arg0, s.arg1, s.arg2, id, rfl⟩
      | bufLen => exact ⟨s.status.ovr, s.config, _, s.arg0, s.arg1, s.arg2, id, rfl⟩
      | arg0 => exact ⟨s.status.ovr, s.config, s.bufLen, _, s.arg1, s.arg2, id, rfl⟩
      | arg1 => exact ⟨s.status.ovr, s.config, s.bufLen, s.arg0, _, s.arg2, id, rfl⟩
      | arg2 => exact ⟨s.status.ovr, s.config, s.bufLen, s.arg0, s.arg1, _, id, rfl⟩
      | _ => exact ⟨s.status.ovr, s.config, s.bufLen, s.arg0, s.arg1, s.arg2, id, rfl⟩

/-- A run goes on from the next state of its first step. -/
theorem run_succ_of_next (M : Host.Core) (n : Nat) (s t : M.State) (h : M.step s = .next t) :
    M.run (n + 1) s = M.run n t := by
  rw [Host.Core.run, h]

/-- Two steps of the machine as a run. -/
theorem core_run_two (s u t : State) (hu : step s = .next u) (ht : step u = .next t) :
    Sys2Proof.core.run 2 s = .next t :=
  (run_succ_of_next Sys2Proof.core 1 s u hu).trans
    (run_succ_of_next Sys2Proof.core 0 u t ht)

end Sys2Proof.Machine
end

