-- ==== Sys2Proof/Tests/Slice0.lean ====
section
/-! SUPPORT. Tests of the model, with expected values from the spec's vectors (95_test_vectors.md) and rules, and the witnesses of the statements' hypotheses. -/

namespace Sys2Proof.Tests

open Sys2Proof.Machine

-- One kernel evaluation at a time: in parallel they need more memory than the check has.
set_option Elab.async false

/-! ### Helpers -/

/-- A buffer that holds these bytes from offset 0 on. -/
def bufOf (bs : List Nat) : Memory := Memory.writeBytes [] 0 (bs.map (BitVec.ofNat 8))

/-- After reset, with a window of `cap` bytes, these bytes written and BUF_LEN their number. -/
def ready (cap : BitVec 32) (bs : List Nat) : State :=
  { State.reset with bufCap := cap, buf := bufOf bs, bufLen := BitVec.ofNat 32 bs.length }

/-- A command running on these bytes and operands, with CONFIG = (tmo, psm). -/
def running (v : Word) (bs : List Nat) (a0 a1 a2 : BitVec 32) (tmo psm : Bool) : State :=
  issue v { ready 0xFFFFFFFF bs with
    arg0 := a0, arg1 := a1, arg2 := a2, config := { tmo := tmo, psm := psm } }

/-- A field of the next state. -/
def got {α : Type} (f : State → α) : Host.Outcome State Fault Refusal → Option α
  | .next t => some (f t)
  | _ => none

/-- A step's result is a next state. -/
def goesOn (o : Host.Outcome State Fault Refusal) : Bool := (got (fun _ => ()) o).isSome

/-- The buffer of 95_test_vectors.md section 2.1. -/
def bytesLE : List Nat := [1, 2, 3, 4, 5, 6, 7, 8, 9]

/-- The buffer of 95_test_vectors.md section 2.2. -/
def bytesCM : List Nat := [0x48, 0x4F, 0x48, 0x46, 0x46, 0x48, 0x4F, 0x48]

/-- The bytes of PH2. -/
def bytesPH2 : List Nat :=
  [0x48, 0x4F, 0xCD, 0xAB, 0x44, 0x33, 0x22, 0x11, 0x88, 0x77, 0x66, 0x55, 0xCC, 0xBB, 0xAA, 0x99] ++
  [0x01, 0xF0, 0xFF, 0xFF, 0x03, 0, 0, 0, 0xEF, 0xBE, 0xAD, 0xDE, 0x78, 0x56, 0x34, 0x12]

/-- The base buffer of 95_test_vectors.md section 2.5. -/
def bytesPT : List Nat :=
  List.replicate 16 0 ++
  [0x48, 0x46, 0, 0, 2, 0, 0, 0, 0x34, 0x12, 0, 0, 0, 0, 0xCD, 0xAB]

/-- WK15's buffer. -/
def bytesWK15 : List Nat :=
  List.replicate 16 0 ++ [0x48, 0x46, 0, 0, 8, 0, 0, 0, 3, 0, 0, 0, 0, 0, 0, 0]

/-- WK5's buffer. -/
def bytesWK5 : List Nat := [0x48, 0x46, 0, 0, 1, 0, 0, 0, 5, 0, 0, 0, 0, 0, 0, 0]

/-- WK11's buffer: two empty fragments. -/
def bytesWK11 : List Nat :=
  [0x48, 0x46, 0, 0, 0, 0, 0, 0, 1, 0, 0, 0, 0, 0, 0, 0] ++
  [0x48, 0x46, 0, 0, 0, 0, 0, 0, 2, 0, 0, 0, 0, 0, 0, 0]

/-- WK11's buffer with the first trailer's first marker byte changed. -/
def bytesWK11bad : List Nat :=
  [0x49, 0x46, 0, 0, 0, 0, 0, 0, 1, 0, 0, 0, 0, 0, 0, 0] ++
  [0x48, 0x46, 0, 0, 0, 0, 0, 0, 2, 0, 0, 0, 0, 0, 0, 0]

/-- WK11's buffer with the second trailer's second marker byte changed. -/
def bytesWK11badHigh : List Nat :=
  [0x48, 0x46, 0, 0, 0, 0, 0, 0, 1, 0, 0, 0, 0, 0, 0, 0] ++
  [0x48, 0x47, 0, 0, 0, 0, 0, 0, 2, 0, 0, 0, 0, 0, 0, 0]

/-- The worked example of R136: one fragment of 16 zero bytes. -/
def bytesWalk : List Nat :=
  List.replicate 16 0 ++ [0x48, 0x46, 0, 0, 1, 0, 0, 0, 7, 0, 0, 0, 0, 0, 0, 0]

/-- DC8's buffer. -/
def bytesDC8 : List Nat :=
  [0x48, 0x4F] ++ List.replicate 14 0 ++ [0x48, 0x4F] ++ List.replicate 14 0 ++
  [0x48, 0x4F] ++ List.replicate 14 0 ++ [0x48, 0x4F] ++ List.replicate 14 0

/-- One slice of W8. -/
def sliceW8 : List Nat :=
  [0x48, 0x4F, 1, 0, 7, 0, 0, 0, 0x64, 0, 0, 0, 0x88, 0x13, 0, 0] ++ List.replicate 16 0

/-- The descriptor of R136's worked example. -/
def oneFrag : FragRec :=
  { orbit := 0xFF, ordinal := 0, payloadStart := 0, payloadSize := 16, fragSize := 1, eventId := 7,
    crc := 0, fragFlags := 0 }

/-! ### The well-formedness smoke test (R72) -/

theorem test_wellFormed_refuses_width_3 : (Instr.leRead 3).wellFormed = false := by decide
theorem test_wellFormed_accepts_width_8 : (Instr.leRead 8).wellFormed = true := by decide

/-! ### Command words, written bit by bit from R70 to R73 -/

theorem test_decode_leRead1 : decode 0b00000000001#64 = .ok (.leRead 1) := by rfl
theorem test_decode_leRead2 : decode 0b00100000001#64 = .ok (.leRead 2) := by rfl
theorem test_decode_leRead4 : decode 0b01000000001#64 = .ok (.leRead 4) := by rfl
theorem test_decode_leRead8 : decode 0b01100000001#64 = .ok (.leRead 8) := by rfl
theorem test_decode_checkMarkerH : decode 0b00000000010#64 = .ok (.checkMarker .header) := by rfl
theorem test_decode_checkMarkerT : decode 0b10000000010#64 = .ok (.checkMarker .trailer) := by rfl
theorem test_decode_segment : decode 0b00000000011#64 = .ok .segment := by rfl
theorem test_decode_parseHeader : decode 0b00000000100#64 = .ok .parseHeader := by rfl
theorem test_decode_parseTrailer : decode 0b00000000101#64 = .ok .parseTrailer := by rfl
theorem test_decode_walk : decode 0b00000000110#64 = .ok .walk := by rfl
theorem test_decode_decode : decode 0b00000000111#64 = .ok .decode := by rfl

/-- CP2, CP3, CP7: reserved opcodes, also with W set. -/
theorem test_decode_reserved_opcode :
    decode 0x000 = .error .reservedOpcode ∧ decode 0x008 = .error .reservedOpcode ∧
    decode 0x0FF = .error .reservedOpcode ∧ decode 0x100 = .error .reservedOpcode :=
  ⟨rfl, rfl, rfl, rfl⟩

/-- CP4, CP5, CP6: W on SEGMENT, M on LE_READ, bit 11, bit 32. -/
theorem test_decode_reserved_field :
    decode 0x103 = .error .reservedField ∧ decode 0x401 = .error .reservedField ∧
    decode 0x801 = .error .reservedField ∧ decode 0x100000001 = .error .reservedField :=
  ⟨rfl, rfl, rfl, rfl⟩

/-! ### Commands -/

/-- LE5. -/
theorem test_leRead_last_bytes :
    got State.result (exec (.leRead 8) (running 0x301 bytesLE 1 0 0 false false)) =
      some 0x0908070605040302 := by decide +kernel

/-- LE7. -/
theorem test_leRead_outOfBounds :
    got (fun t => (t.results.errs, statusWord t.status))
        (exec (.leRead 4) (running 0x201 bytesLE 6 0 0 false false)) =
      some ([{ kind := .outOfBounds, orbit := 0xFF, ordinal := 0xFFFF, offset := 6, expected := 4,
               actual := 3 }], 0x006) := by decide +kernel

/-- CM6: bytes 46 48 match under TMO = 1. -/
theorem test_checkMarker_tmo :
    got State.result (exec (.checkMarker .trailer) (running 0x402 bytesCM 4 0 0 true false)) =
      some 1 := by decide +kernel

/-- CM2: the header pair swapped is a mismatch and no error. -/
theorem test_checkMarker_swapped :
    got (fun t => (t.result, statusWord t.status))
        (exec (.checkMarker .header) (running 0x002 bytesCM 1 0 0 false false)) =
      some (0, 0x002) := by decide +kernel

/-- SG6. -/
theorem test_segment_remainder :
    got State.result (exec .segment { running 0x003 [] 0 0 0 false false with
      eng := { Engine.reset with len := 130 } }) = some 32 := by decide +kernel

/-- PH2. -/
theorem test_parseHeader_fields :
    got State.hdr (exec .parseHeader (running 0x004 bytesPH2 0 0 0 false false)) =
      some { version := 0xABCD, sourceId := 0x11223344, runNumber := 0x55667788,
             orbitNumber := 0x99AABBCC, eventCount := 1, packetWordCount := 3,
             flags := 0xDEADBEEF, checksum := 0x12345678, cursor := 32 } := by decide +kernel

/-- PH5: the length test precedes the marker test. -/
theorem test_parseHeader_truncated :
    got (fun t => t.results.errs) (exec .parseHeader (running 0x004 sliceW8 1 0 0 false false)) =
      some [{ kind := .truncatedHeader, orbit := 0xFF, ordinal := 0xFFFF, offset := 1,
              expected := 32, actual := 31 }] := by decide +kernel

/-- PT1. -/
theorem test_parseTrailer_fields :
    got (fun t => (t.trl, t.result, statusWord t.status))
        (exec .parseTrailer (running 0x005 bytesPT 32 0 0 false false)) =
      some ({ marker := 0x4648, fragFlags := 0, fragSize := 2, eventId := 0x1234, crc := 0xABCD },
        32, 0x042) := by decide +kernel

/-- PT3: OutOfBounds at the eventId read. -/
theorem test_parseTrailer_outOfBounds :
    got (fun t => t.results.errs) (exec .parseTrailer (running 0x005 bytesPT 33 0 0 false false)) =
      some [{ kind := .outOfBounds, orbit := 0xFF, ordinal := 0xFFFF, offset := 25, expected := 8,
              actual := 7 }] := by decide +kernel

/-- WK11: two empty fragments, the second one below startIdx. -/
theorem test_walk_below_start :
    got (fun t => (t.results.frags, t.result))
        (exec .walk (running 0x006 bytesWK11 16 1 2 false false)) =
      some ([{ orbit := 0xFF, ordinal := 1, payloadStart := 16, payloadSize := 0, fragSize := 0,
               eventId := 2, crc := 0, fragFlags := 0 },
             { orbit := 0xFF, ordinal := 0, payloadStart := 0, payloadSize := 0, fragSize := 0,
               eventId := 1, crc := 0, fragFlags := 0 }], 0) := by decide +kernel

/-- WK16: the payload does not fit before its trailer. -/
theorem test_walk_truncatedPayload :
    got (fun t => (t.results.errs, t.result))
        (exec .walk (running 0x006 bytesWK15 0 2 1 false false)) =
      some ([{ kind := .truncatedPayload, orbit := 0xFF, ordinal := 0, offset := 16,
               expected := 128, actual := 16 }], 16) := by decide +kernel

/-- DC8: four errors, three orbit records. -/
theorem test_decode_four_errors :
    got (fun t => (t.results.errs, t.results.orbits.map OrbitRec.finalCursor))
        (exec .decode (running 0x007 bytesDC8 0 0 0 false false)) =
      some ([{ kind := .badTrailerMarker, orbit := 0, ordinal := 3911, offset := 16,
               expected := 0x4648, actual := 0x4F48 },
             { kind := .badTrailerMarker, orbit := 1, ordinal := 3911, offset := 32,
               expected := 0x4648, actual := 0x4F48 },
             { kind := .badTrailerMarker, orbit := 2, ordinal := 3911, offset := 48,
               expected := 0x4648, actual := 0x4F48 },
             { kind := .truncatedHeader, orbit := 3, ordinal := 0xFFFF, offset := 48,
               expected := 32, actual := 16 }], [16, 32, 48]) := by decide +kernel

/-- W8, its last orbit record. -/
theorem test_decode_end_to_end :
    got (fun t => (t.results.orbits[3]?, t.results.errs.length, statusWord t.status))
        (exec .decode (running 0x007 (sliceW8 ++ sliceW8 ++ sliceW8 ++ sliceW8) 0 0 0 false false)) =
      some (some { orbit := 3, sliceStart := 96, version := 1, sourceId := 7, runNumber := 100,
                   orbitNumber := 5000, eventCount := 0, packetWordCount := 0, flags := 0,
                   checksum := 0, regionStart := 128, regionEnd := 128, firstFrag := 0,
                   numFrags := 0, walkStatus := none, finalCursor := 128 }, 0, 0x002) := by
  decide +kernel

/-! ### The host's port -/

/-- CP7 and CP4: STATUS after an illegal write to CMD. -/
theorem test_cmd_illegal :
    got (fun t => statusWord t.status) (step { State.reset with moves := [.wr 0 0x100] }) =
        some 0x00A ∧
    got (fun t => statusWord t.status) (step { State.reset with moves := [.wr 0 0x103] }) =
        some 0x10A := by decide +kernel

/-- CP8: BUF_LEN > BUF_CAP. -/
theorem test_cmd_bufLen :
    got (fun t => statusWord t.status)
        (step { ready 256 [] with bufLen := 257, moves := [.wr 0 0x003] }) = some 0x20A := by
  decide +kernel

/-- CP11, CP12: a write to CMD while BUSY sets OVR; a write of 1 to bit 4 of STATUS clears it. -/
theorem test_ovr :
    got (fun t => t.status.ovr)
        (step { running 0x007 [] 0 0 0 false false with moves := [.wr 0 0x003] }) = some true ∧
    got (fun t => t.status.ovr)
        (step { State.reset with
          status := { Status.reset with ovr := true, done := true }, moves := [.wr 1 0x10] }) =
        some false := by decide +kernel

/-- CP14: a write of ARG2 while BUSY is read back, and CONFIG reads TMO in bit 0 and PSM in bit 1 (R27). -/
theorem test_read_while_busy :
    got State.rdata (Sys2Proof.core.run 2 { running 0x006 [] 32 9 3 false false with
      moves := [.wr 6 1, .rd 6] }) = some 1 ∧
    got State.rdata (step { running 0x007 [] 0 0 0 true false with moves := [.rd 2] }) =
      some 1 := by decide +kernel

/-- R34, R22: EVENT_ID of the first descriptor reads at 0x100005. -/
theorem test_read_frag_field :
    got State.rdata (step { State.reset with
      results := { Results.empty with frags := [oneFrag] }, moves := [.rd 0x100005] }) =
        some 7 := by decide +kernel

/-- R82: `LE_READ.4 2` expands to its two writes and a wait. -/
theorem test_pseudo_leRead :
    (Pseudo.leRead 4 2).expand = [.wr 4 2, .wr 0 0x201, .wait] := by decide +kernel

/-- The placed command is the next one to run, right after reset. -/
theorem test_withFetchWord :
    goesOn (step (State.reset.withFetchWord 32 0x007)) = true ∧
    got (fun t => statusWord t.status) (step (State.reset.withFetchWord 32 0x003)) = some 0x002 ∧
    decodeTableWord 32 0x402 = some (.checkMarker .trailer) := by decide +kernel

end Sys2Proof.Tests
end

