-- ==== Sys2Proof/Tests/Witnesses.lean ====
section
/-! SUPPORT. For every statement with hypotheses, states and operands that meet them all, one witness for each clause at a boundary of its range. -/

namespace Sys2Proof.Tests

open Sys2Proof.Machine

-- One kernel evaluation at a time: in parallel they need more memory than the check has.
set_option Elab.async false

/-- The invariant from its machine-checkable parts: the latched command is given as a witness. -/
theorem machineInv_of_run (s : State) (i : Instr) (hb : s.buf = []) (hp : s.eng.phase = .run)
    (hbusy : s.status.busy = true) (hd : s.status.done = false) (hf : fetch s.eng = .ok i)
    (hw : i.wellFormed = true) (hl : s.eng.len ≤ s.bufCap) (hr : s.results = .empty)
    (he : s.status.err = false) (hi : s.status.ill = false) (hc : s.status.illCause = 0) :
    MachineInv s :=
  { bufCanonical := by simp [hb], bufInWindow := by simp [hb], busyIffRun := by simp [hbusy, hp],
    busyNotDone := by simp [hd], runLegal := fun _ => ⟨i, hf, hw⟩, runInWindow := fun _ => hl,
    runClean := fun _ => ⟨hr, he, hi, hc⟩, idleClean := by simp [hbusy], illDone := by simp [hi],
    errFlag := by simp [hd], fragBound := by simp [hr], orbitBound := by simp [hr],
    errBound := by simp [hr], orbitIndex := by simp [hr] }

/-- A DECODE running on an empty buffer, with these moves to come. -/
def busyWith (ms : List Move) : State := { running 0x007 [] 0 0 0 false false with moves := ms }

theorem busyWith_inv (ms : List Move) : MachineInv (busyWith ms) :=
  machineInv_of_run (busyWith ms) .decode rfl rfl rfl rfl (fetch_issue 0x007 _ .decode rfl) rfl
    (Nat.zero_le _) rfl rfl rfl rfl

/-! ### Issue and the step -/

theorem test_witness_StepRunsLatchedCommand :
    (busyWith []).eng.phase = .run ∧
    decode (0#53 ++ (busyWith []).eng.m ++ (busyWith []).eng.w ++ (busyWith []).eng.op) =
      .ok .decode ∧ (busyWith []).moves = [] ∧
    (busyWith [.engine]).moves = .engine :: [] ∧
    (busyWith [.wait]).moves = .wait :: [] ∧ (busyWith [.wait]).status.done = false :=
  ⟨rfl, rfl, rfl, rfl, rfl, rfl⟩

/-- BUF_LEN = BUF_CAP, the largest length that issues. -/
theorem test_witness_CmdWriteIssues :
    ∃ s : State, s.status.busy = false ∧ decode 0x006 = .ok .walk ∧ s.bufLen ≤ s.bufCap ∧
      s.moves = .wr 0 0x006 :: [] :=
  ⟨{ ready 9 bytesLE with moves := [.wr 0 0x006] }, rfl, rfl, by decide, rfl⟩

theorem test_witness_IllegalCmdWrite_opcode :
    ∃ s : State, s.status.busy = false ∧ s.moves = .wr 0 0x008 :: [] ∧
      ((0x008 : Word).toNat % 256 = 0 ∨ 8 ≤ (0x008 : Word).toNat % 256) :=
  ⟨{ State.reset with moves := [.wr 0 0x008] }, rfl, rfl, by decide⟩

theorem test_witness_IllegalCmdWrite_field :
    ∃ s : State, s.status.busy = false ∧ s.moves = .wr 0 0x107 :: [] ∧
      ¬ ((0x107 : Word).toNat % 256 = 0 ∨ 8 ≤ (0x107 : Word).toNat % 256) ∧
      ((0x107 : Word).toNat / 2048 ≠ 0 ∨
        ((0x107 : Word).toNat / 256 % 4 ≠ 0 ∧ (0x107 : Word).toNat % 256 ≠ 1) ∨
        ((0x107 : Word).toNat / 1024 % 2 ≠ 0 ∧ (0x107 : Word).toNat % 256 ≠ 2)) :=
  ⟨{ State.reset with moves := [.wr 0 0x107] }, rfl, rfl, by decide, by decide⟩

/-- BUF_LEN = BUF_CAP + 1. -/
theorem test_witness_IllegalCmdWrite_bufLen :
    ∃ s : State, s.status.busy = false ∧ s.moves = .wr 0 0x003 :: [] ∧
      ¬ ((0x003 : Word).toNat % 256 = 0 ∨ 8 ≤ (0x003 : Word).toNat % 256) ∧
      ¬ ((0x003 : Word).toNat / 2048 ≠ 0 ∨
        ((0x003 : Word).toNat / 256 % 4 ≠ 0 ∧ (0x003 : Word).toNat % 256 ≠ 1) ∨
        ((0x003 : Word).toNat / 1024 % 2 ≠ 0 ∧ (0x003 : Word).toNat % 256 ≠ 2)) ∧
      s.bufCap < s.bufLen :=
  ⟨{ ready 256 [] with bufLen := 257, moves := [.wr 0 0x003] }, rfl, rfl, by decide, by decide,
    by decide⟩

theorem test_witness_CmdWriteWhileBusy :
    (busyWith [.wr 0 0x003]).status.busy = true ∧
      (busyWith [.wr 0 0x003]).moves = .wr 0 0x003 :: [] := ⟨rfl, rfl⟩

theorem test_witness_OnlyLegalCmdWriteStarts :
    ∃ s t : State, step s = .next t ∧ s.status.busy = false ∧ t.status.busy = true := by
  refine ⟨{ ready 9 bytesLE with moves := [.wr 0 0x003] }, _, rfl, rfl, ?_⟩
  decide +kernel

theorem test_witness_IdleKeepsState :
    State.reset.eng.phase = .idle ∧ State.reset.moves = [] := ⟨rfl, rfl⟩

theorem test_witness_WaitEnds :
    MachineInv (busyWith [.wait]) ∧ (busyWith [.wait]).eng.phase = .run ∧
      (busyWith [.wait]).moves = .wait :: [] := ⟨busyWith_inv _, rfl, rfl⟩

theorem test_witness_ResetMove : (busyWith [.rst]).moves = .rst :: [] := rfl

/-! ### Host registers -/

theorem test_witness_OvrClearedOnlyByHostOrReset :
    ∃ s t : State, step s = .next t ∧ s.status.ovr = true ∧ t.status.ovr = false ∧
      s.moves = .wr 1 0x10 :: [] := by
  refine ⟨{ State.reset with
    status := { Status.reset with ovr := true }, moves := [.wr 1 0x10] }, _, rfl, rfl, ?_, rfl⟩
  decide +kernel

theorem test_witness_ConfigAndOperandWrites :
    (busyWith [.wr 2 3]).moves = .wr 2 3 :: [] ∧ (busyWith [.wr 3 9]).moves = .wr 3 9 :: [] ∧
    (busyWith [.wr 4 1]).moves = .wr 4 1 :: [] ∧ (busyWith [.wr 5 1]).moves = .wr 5 1 :: [] ∧
    (busyWith [.wr 6 1]).moves = .wr 6 1 :: [] := ⟨rfl, rfl, rfl, rfl, rfl⟩

theorem test_witness_IgnoredWrites :
    7 ≤ (7 : RegIndex).toNat ∧ (busyWith [.wr 7 1]).moves = .wr 7 1 :: [] ∧
    7 ≤ (0xFFFFFF : RegIndex).toNat ∧ (busyWith [.wr 0xFFFFFF 1]).moves = .wr 0xFFFFFF 1 :: [] :=
  ⟨by decide, rfl, by decide, rfl⟩

theorem test_witness_RegisterMap :
    regAt 0x11FFDF = some (.frag 16379 7) ∧ (0x11FFDF : RegIndex).toNat = 0x100000 + 8 * 16379 + 7 ∧
    regAt 0x11FFE0 = none ∧
    regAt 0x20003F = some (.orbit 3 15) ∧ (0x20003F : RegIndex).toNat = 0x200000 + 16 * 3 + 15 ∧
    regAt 0x200040 = none ∧
    regAt 0x30001F = some (.err 3 7) ∧ (0x30001F : RegIndex).toNat = 0x300000 + 8 * 3 + 7 ∧
    regAt 0x300020 = none ∧ regAt 0x000018 = some .errCount ∧ regAt 0x000019 = none := by
  decide +kernel

theorem test_witness_UnmappedReads :
    (busyWith [.rd 0x19]).moves = .rd 0x19 :: [] ∧
    (0x18 < (0x19 : RegIndex).toNat ∧ (0x19 : RegIndex).toNat < 0x100000) ∧
    (0x100000 + 8 * 16380 ≤ (0x11FFE0 : RegIndex).toNat ∧ (0x11FFE0 : RegIndex).toNat < 0x200000) ∧
    (0x200000 + 16 * 4 ≤ (0x200040 : RegIndex).toNat ∧ (0x200040 : RegIndex).toNat < 0x300000) ∧
    0x300000 + 8 * 4 ≤ (0xFFFFFF : RegIndex).toNat := by decide

/-- Record 0 with every count 0, RESULT while BUSY, and STATUS. -/
theorem test_witness_UnspecifiedReads :
    regAt 0x100000 = some (.frag 0 0) ∧ State.reset.results.frags.length ≤ 0 ∧
    regAt 0x200000 = some (.orbit 0 0) ∧ State.reset.results.orbits.length ≤ 0 ∧
    regAt 0x300000 = some (.err 0 0) ∧ State.reset.results.errs.length ≤ 0 ∧
    regAt 0x7 = some .result ∧ (busyWith [.rd 0x7]).status.busy = true ∧
    (busyWith [.rd 0x7]).moves = .rd 0x7 :: [] ∧
    Reg.result ∉ [Reg.config, Reg.bufLen, Reg.arg0, Reg.arg1, Reg.arg2, Reg.status] ∧
    regAt 0x1 = some .status := by
  refine ⟨by decide +kernel, by decide, by decide +kernel, by decide, by decide +kernel, by decide,
    by decide +kernel, rfl, rfl, by decide, by decide +kernel⟩

theorem test_witness_NamedRegisterReads :
    State.reset.status.busy = false ∧ State.reset.results.frags.length ≤ 16380 ∧
    State.reset.results.orbits.length ≤ 4 ∧ State.reset.results.errs.length ≤ 4 :=
  ⟨rfl, by decide, by decide, by decide⟩

/-- An orbit record with every field 0. -/
def zeroOrbit : OrbitRec :=
  { orbit := 0, sliceStart := 0, version := 0, sourceId := 0, runNumber := 0, orbitNumber := 0,
    eventCount := 0, packetWordCount := 0, flags := 0, checksum := 0, regionStart := 0,
    regionEnd := 0, firstFrag := 0, numFrags := 0, walkStatus := none, finalCursor := 0 }

/-- One record in each result memory. -/
def oneEach : State :=
  { State.reset with results := { frags := [oneFrag], orbits := [zeroOrbit],
                                  errs := [outOfBoundsRec 0xFF 0xFFFF 9 6 4] } }

theorem test_witness_RecordReads :
    oneEach.status.busy = false ∧ oneEach.results.frags[0]? = some oneFrag ∧
    oneEach.results.orbits[0]? = some zeroOrbit ∧
    oneEach.results.errs[0]? = some (outOfBoundsRec 0xFF 0xFFFF 9 6 4) := ⟨rfl, rfl, rfl, rfl⟩

/-- While BUSY; one byte past the window; exactly up to its end. -/
theorem test_witness_BufferWrites :
    (busyWith [.bytes 0 [1]]).status.busy = true ∧
    (∃ s : State, s.moves = .bytes 255 [1, 2] :: [] ∧ s.status.busy = false ∧
      ([1, 2] : List Byte) ≠ [] ∧ s.bufCap.toNat < (255 : BitVec 32).toNat + 2) ∧
    (∃ s : State, s.moves = .bytes 254 [1, 2] :: [] ∧ s.status.busy = false ∧
      (254 : BitVec 32).toNat + ([1, 2] : List Byte).length ≤ s.bufCap.toNat) :=
  ⟨rfl, ⟨{ ready 256 [] with moves := [.bytes 255 [1, 2]] }, rfl, rfl, by decide, by decide⟩,
    ⟨{ ready 256 [] with moves := [.bytes 254 [1, 2]] }, rfl, rfl, by decide⟩⟩

/-- A byte the host wrote, and one it never wrote, at the boundary between the two. -/
theorem test_witness_EngineReadsHostBytes :
    let v := (running 0x101 bytesLE 0 0 0 false false).view
    v.buf.lookup 8 = some 9 ∧ v.buf.lookup 9 = none := by decide +kernel

theorem test_witness_ExactReads :
    (busyWith [.wr 2 3, .rd 2]).moves = .wr 2 3 :: .rd 2 :: [] ∧
    (busyWith [.wr 6 1, .rd 6]).moves = .wr 6 1 :: .rd 6 :: [] ∧
    (busyWith [.wr 6 1, .rd 6]).status.busy = true ∧
    (6 : RegIndex) ∈ ([3, 4, 5, 6] : List RegIndex) := ⟨rfl, rfl, rfl, by decide⟩

/-! ### Fields and the standalone commands -/

/-- The last two bytes of the buffer, and one byte short. -/
theorem test_witness_MarkerBytes :
    6 + 2 ≤ (running 0x402 bytesCM 6 0 0 true false).view.len ∧
    (running 0x402 bytesCM 7 0 0 true false).view.len < 7 + 2 := by decide +kernel

/-- Width 2, the last bytes of the buffer. -/
theorem test_witness_FieldRoundTrip :
    let v := (running 0x101 bytesLE 0 0 0 false false).view
    2 ∈ ([1, 2, 4, 8] : List Nat) ∧ 0x0908 < 2 ^ (8 * 2) ∧ 7 + 2 ≤ v.len ∧
      ∀ i, i < 2 → (byteAt v (7 + i)).toNat = 0x0908 / 2 ^ (8 * i) % 2 ^ 8 := by
  decide +kernel

theorem test_witness_EventIdAndCrcShareBytes :
    16 + 16 ≤ (running 0x005 bytesPT 32 0 0 false false).view.len := by decide +kernel

theorem test_witness_LeReadResult :
    2 ∈ ([1, 2, 4, 8] : List Nat) ∧
    (7 + 2 ≤ (running 0x101 bytesLE 7 0 0 false false).eng.len.toNat) ∧
    ((running 0x101 bytesLE 8 0 0 false false).eng.len.toNat < 8 + 2) := by decide +kernel

theorem test_witness_CheckMarkerResult :
    6 + 2 ≤ (running 0x002 bytesCM 6 0 0 false false).eng.len.toNat ∧
    (running 0x002 bytesCM 7 0 0 false false).eng.len.toNat < 7 + 2 := by decide +kernel

theorem test_witness_ParseHeaderResult :
    (running 0x004 sliceW8 1 0 0 false false).eng.len.toNat < 1 + 32 ∧
    (0 + 32 ≤ (running 0x004 bytesPT 0 0 0 false false).eng.len.toNat ∧
      fieldValue (running 0x004 bytesPT 0 0 0 false false).view 0 2 ≠ 0x4F48) ∧
    (0 + 32 ≤ (running 0x004 sliceW8 0 0 0 false false).eng.len.toNat ∧
      fieldValue (running 0x004 sliceW8 0 0 0 false false).view 0 2 = 0x4F48) := by
  simp only [← leField_eq]
  decide +kernel

/-- W2: X = 1 under the reserved pattern 0xFFFFF (the bytes of PH2). -/
theorem test_witness_EventCountIgnoresReservedBits :
    1 < 4096 ∧ 0xFFFFF < 2 ^ 20 ∧ headerOk (running 0x004 bytesPH2 0 0 0 false false).view 0 ∧
    fieldValue (running 0x004 bytesPH2 0 0 0 false false).view (0 + 16) 4 =
      1 ||| (0xFFFFF <<< 12) := by
  simp only [headerOk, ← leField_eq]
  decide +kernel

theorem test_witness_ParseTrailerResult :
    15 < 16 ∧
    (running 0x005 bytesPT 33 0 0 false false).eng.len.toNat < 33 ∧
    (16 ≤ (running 0x005 bytesPT 16 0 0 false false).eng.len.toNat ∧
      fieldValue (running 0x005 bytesPT 16 0 0 false false).view (16 - 16) 2 ≠
        trailerMarkerValue false) ∧
    (32 ≤ (running 0x005 bytesPT 32 0 0 false false).eng.len.toNat ∧
      fieldValue (running 0x005 bytesPT 32 0 0 false false).view (32 - 16) 2 =
        trailerMarkerValue false) := by
  simp only [← leField_eq]
  decide +kernel

/-! ### The walk -/

/-- The five clauses: cursor 15, cursor 33 on 32 bytes, a wrong marker, a payload too large, a fragment. -/
theorem test_witness_WalkStepPriority :
    let v := (running 0x006 bytesWK15 0 2 1 false false).view
    let u := (running 0x006 bytesWalk 0 2 1 false false).view
    15 < 16 ∧ v.len < 33 ∧
    (16 ≤ v.len ∧ fieldValue v (16 - 16) 2 ≠ trailerMarkerValue v.tmo) ∧
    (32 ≤ v.len ∧ fieldValue v (32 - 16) 2 = trailerMarkerValue v.tmo ∧
      32 - 16 < payloadSizeOf v.psm (fieldValue v (32 - 16 + 4) 4)) ∧
    (32 ≤ u.len ∧ fieldValue u (32 - 16) 2 = trailerMarkerValue u.tmo ∧
      payloadSizeOf u.psm (fieldValue u (32 - 16 + 4) 4) ≤ 32 - 16) := by
  simp only [← leField_eq]
  decide +kernel

/-- ARG2 = 0x1000 is eventCount 0. -/
theorem test_witness_WalkEventCountZero :
    (running 0x006 bytesLE 5 1000 0x1000 false false).eng.a2.toNat % 4096 = 0 := by decide +kernel

/-- WK10: the region ends at 40 on 32 bytes. -/
theorem test_witness_WalkRegionBeyondBuffer :
    let s := running 0x006 (List.replicate 32 0) 8 2 1 false false
    0 < s.eng.a2.toNat % 4096 ∧ 16 ≤ s.eng.a0.toNat + s.eng.a1.toNat * 16 ∧
      s.eng.len.toNat < s.eng.a0.toNat + s.eng.a1.toNat * 16 := by decide +kernel

/-- R136's worked example: one fragment of one word. -/
theorem test_witness_WalkWellFormedRegion :
    let s := running 0x006 bytesWalk 0 2 1 false false
    s.eng.psm = false ∧ s.eng.a2.toNat % 4096 = 1 ∧ s.eng.a1.toNat * 16 = 1 * (16 * 1 + 16) ∧
      wellFormedRegion s.view s.eng.a0.toNat 1 1 := by
  simp only [wellFormedRegion, trailerOk, ← leField_eq]
  decide +kernel

/-- Two empty fragments, the marker of ordinal 0 damaged. -/
theorem test_witness_WalkCorruptedMarker :
    let s := running 0x006 bytesWK11bad 0 2 2 false false
    s.eng.psm = false ∧ s.eng.a2.toNat % 4096 = 2 ∧ s.eng.a1.toNat * 16 = 2 * (16 * 0 + 16) ∧
      0 < 2 ∧ corruptedRegion s.view s.eng.a0.toNat 2 0 0 := by
  simp only [corruptedRegion, trailerOk, ← leField_eq]
  decide +kernel

/-- Two empty fragments, the marker of the highest ordinal damaged. -/
theorem test_witness_WalkCorruptedMarker_highest :
    let s := running 0x006 bytesWK11badHigh 0 2 2 false false
    s.eng.psm = false ∧ s.eng.a2.toNat % 4096 = 2 ∧ s.eng.a1.toNat * 16 = 2 * (16 * 0 + 16) ∧
      1 < 2 ∧ corruptedRegion s.view s.eng.a0.toNat 2 0 1 := by
  simp only [corruptedRegion, trailerOk, ← leField_eq]
  decide +kernel

theorem test_witness_WalkOrdinalsAndOffsets :
    let v := (running 0x006 bytesWK11 0 2 2 false false).view
    2 ≤ 4095 ∧ 32 < 2 ^ 64 ∧ (walkFrom v 0xFF 2 32).frags[0]?.isSome = true ∧
      (walkFrom v 0xFF 2 32).frags[0 + 1]?.isSome = true := by decide +kernel

/-! ### The whole-buffer decode -/

theorem test_witness_DecodeShortBuffer :
    (running 0x007 [0, 0, 0] 0 0 0 false false).eng.len.toNat < 4 ∧
    (running 0x007 (List.replicate 31 0) 0 0 0 false false).eng.len.toNat < 32 := by decide +kernel

/-- DC8: the headers of orbits 0 to 2 parse and orbit 3 is too short. -/
theorem test_witness_DecodeHeaderFailureEndsRun :
    let s := running 0x007 bytesDC8 0 0 0 false false
    3 < 4 ∧ (∀ j, j < 3 → headerOk s.view (j * (s.eng.len.toNat / 4))) ∧
      ¬ headerOk s.view (3 * (s.eng.len.toNat / 4)) := by
  simp only [headerOk, ← leField_eq]
  decide +kernel

/-- An empty buffer: orbit 0 has no header. -/
theorem test_witness_DecodeHeaderFailureEndsRun_first :
    let s := running 0x007 [] 0 0 0 false false
    0 < 4 ∧ (∀ j, j < 0 → headerOk s.view (j * (s.eng.len.toNat / 4))) ∧
      ¬ headerOk s.view (0 * (s.eng.len.toNat / 4)) := by
  simp only [headerOk, ← leField_eq]
  decide +kernel

/-- W8 at orbit 3: all four headers parse. -/
theorem test_witness_DecodeRecordsOrbit_last :
    let s := running 0x007 (sliceW8 ++ sliceW8 ++ sliceW8 ++ sliceW8) 0 0 0 false false
    3 < 4 ∧ s.results = .empty ∧ ∀ j, j ≤ 3 → headerOk s.view (j * (s.eng.len.toNat / 4)) := by
  simp only [headerOk, ← leField_eq]
  decide +kernel

/-- DC8 at orbit 2, whose walk is stopped by an error, as the walks before it are. -/
theorem test_witness_DecodeRecordsOrbit :
    let s := running 0x007 bytesDC8 0 0 0 false false
    2 < 4 ∧ s.results = .empty ∧ ∀ j, j ≤ 2 → headerOk s.view (j * (s.eng.len.toNat / 4)) := by
  simp only [headerOk, ← leField_eq]
  decide +kernel

theorem test_witness_DecodeErrorBound_DecodeOutputOrder :
    (running 0x007 bytesDC8 0 0 0 false false).results = .empty := rfl

/-! ### The machine as a whole -/

/-- Two buffers that differ beyond `L = 9` only. -/
theorem test_witness_NothingBeyondLengthIsRead :
    let s := running 0x301 bytesLE 1 0 0 false false
    agreeBelowLen s.view { s.view with buf := bufOf (bytesLE ++ [77]), seed := 5 } ∧
      bufOf (bytesLE ++ [77]) ≠ s.buf := by
  refine ⟨⟨rfl, rfl, rfl, ?_⟩, by decide +kernel⟩
  decide +kernel

theorem test_witness_StepKeepsInv_OnlyHostChangesBuffer_HeaderAndTrailerSurvive :
    ∃ t, MachineInv (busyWith []) ∧ step (busyWith []) = .next t := ⟨_, busyWith_inv _, rfl⟩

/-- PARSE_HEADER on PH2's bytes changes HDR_*, PARSE_TRAILER on PT1's changes TRL_*. -/
theorem test_witness_HeaderAndTrailerSurvive :
    got (fun t => decide (t.hdr ≠ OrbitHeader.reset))
        (step (running 0x004 bytesPH2 0 0 0 false false)) = some true ∧
    got (fun t => decide (t.trl ≠ FragmentTrailer.reset))
        (step (running 0x005 bytesPT 32 0 0 false false)) = some true := by decide +kernel

theorem test_witness_NeverStops :
    MachineInv (busyWith [.wr 0 0x003]) ∧ hostKeepsDuty (busyWith [.wr 0 0x003]) = true :=
  ⟨busyWith_inv _, rfl⟩

end Sys2Proof.Tests
end

/-! PROOFS. The scope's statements (spec/00_scope.md): the result memories only grow while a command runs (R15). -/

namespace Sys2Proof.Machine

/-- Every record of `r` is in `r'`, at the index it had (R15: emitting and raising append). -/
def Results.Extends (r r' : Results) : Prop :=
  r.frags <+: r'.frags ∧ r.orbits <+: r'.orbits ∧ r.errs <+: r'.errs

theorem Results.Extends.refl (r : Results) : r.Extends r :=
  ⟨List.prefix_rfl, List.prefix_rfl, List.prefix_rfl⟩

theorem Results.Extends.trans {r₁ r₂ r₃ : Results} (h : r₁.Extends r₂) (h' : r₂.Extends r₃) :
    r₁.Extends r₃ := by
  obtain ⟨hf, ho, he⟩ := h
  obtain ⟨hf', ho', he'⟩ := h'
  exact ⟨hf.trans hf', ho.trans ho', he.trans he'⟩

theorem extends_raiseIn (orb : BitVec 8) (ord : BitVec 16) (f : Failure) (r : Results) :
    r.Extends (raiseIn orb ord f r) :=
  ⟨List.prefix_rfl, List.prefix_rfl, List.prefix_append _ _⟩

theorem extends_emitFrags (recs : List FragRec) (r : Results) : r.Extends (emitFrags recs r) :=
  ⟨List.prefix_append _ _, List.prefix_rfl, List.prefix_rfl⟩

theorem extends_emitOrbit (rec : OrbitRec) (r : Results) : r.Extends (emitOrbit rec r) :=
  ⟨List.prefix_rfl, List.prefix_append _ _, List.prefix_rfl⟩

/-- A walk's descriptors come first, then its error record if it stopped early (R129). -/
theorem extends_commitWalk (orb : BitVec 8) (w : WalkResult) (r : Results) :
    r.Extends (commitWalk orb w r) := by
  rw [commitWalk]
  split
  · exact extends_emitFrags _ _
  · exact (extends_emitFrags _ _).trans (extends_raiseIn _ _ _ _)

/-- However many orbits a decode visits, and however it ends, it only adds records (R141). -/
theorem extends_decodeOrbits (v : EngineView) (n i : Nat) (r : Results) :
    r.Extends (decodeOrbits v n i r) := by
  induction n generalizing i r with
  | zero => exact .refl r
  | succ n ih =>
    rcases decodeOrbits_succ_cases v n i r with ⟨f, -, hrun⟩ | ⟨h, -, hrun⟩ <;> rw [hrun]
    · exact extends_raiseIn _ _ _ _
    · exact ((extends_commitWalk _ _ _).trans (extends_emitOrbit _ _)).trans (ih _ _)

/-- DECODE is the completion of the state with its orbits' records added (R140). -/
theorem exec_decode (s : State) : exec .decode s =
    .next (complete { s with results := decodeOrbits s.view Config.nOrbits 0 s.results }) := rfl

end Sys2Proof.Machine

namespace Sys2Proof
open Machine

/-- Settles O45: DECODE is a completion with the decoded orbits' records, and these only extend the result memories. -/
theorem decodeFrame : Obligations.DecodeFrame := fun s =>
  ⟨decodeOrbits s.view Config.nOrbits 0 s.results, exec_decode s, extends_decodeOrbits _ _ _ _⟩

end Sys2Proof

/-! PROOFS. The state's statements: what a command writes (R30 to R33, R39), said once for all commands. -/

namespace Sys2Proof.Machine

/-- All that a command can write before it completes (R30 to R33). -/
structure Outputs where
  result : BitVec 64
  hdr : OrbitHeader
  trl : FragmentTrailer
  hdrValid : Bool
  trlValid : Bool
  results : Results

/-- The state with a command's outputs written. -/
def State.withOutputs (s : State) (o : Outputs) : State :=
  { s with
    result := o.result, hdr := o.hdr, trl := o.trl, results := o.results,
    status := { s.status with hdrValid := o.hdrValid, trlValid := o.trlValid } }

/-- The outputs that leave every output register as `s` holds it. -/
def State.outputs (s : State) : Outputs :=
  { result := s.result, hdr := s.hdr, trl := s.trl, hdrValid := s.status.hdrValid,
    trlValid := s.status.trlValid, results := s.results }

@[simp] theorem withOutputs_results (s : State) (o : Outputs) :
    (s.withOutputs o).results = o.results := rfl
@[simp] theorem withOutputs_ill (s : State) (o : Outputs) :
    (s.withOutputs o).status.ill = s.status.ill := rfl
@[simp] theorem withOutputs_ovr (s : State) (o : Outputs) :
    (s.withOutputs o).status.ovr = s.status.ovr := rfl
@[simp] theorem withOutputs_eng (s : State) (o : Outputs) : (s.withOutputs o).eng = s.eng := rfl

/-- What a command can make of the result memories (R14, R15): nothing, one error record of no
orbit and no fragment, the records of one walk, or those of the orbits. -/
inductive CommandResults (s : State) : Instr → Results → Prop
  | kept (i : Instr) (hwalk : i ≠ .walk) (hdecode : i ≠ .decode) : CommandResults s i s.results
  | error (i : Instr) (f : Failure) (hsegment : i ≠ .segment) (hwalk : i ≠ .walk)
      (hdecode : i ≠ .decode) :
      CommandResults s i (raiseIn Config.noneOrb Config.noneOrd f s.results)
  | walk : CommandResults s .walk (commitWalk Config.noneOrb
      (Machine.walk s.view Config.noneOrb (operand0 s.eng) (operand1 s.eng)
        (eventCountOperand s.eng)) s.results)
  | decode : CommandResults s .decode (decodeOrbits s.view Config.nOrbits 0 s.results)

/-- The outputs `o` are ones that the command `i` can leave: each command writes its own registers
only, and HDR_* and TRL_* together with their VALID bit (R31, R32). -/
structure CommandOutputs (i : Instr) (s : State) (o : Outputs) : Prop where
  hdr : (o.hdr = s.hdr ∧ o.hdrValid = s.status.hdrValid) ∨ (i = .parseHeader ∧ o.hdrValid = true)
  trl : (o.trl = s.trl ∧ o.trlValid = s.status.trlValid) ∨ (i = .parseTrailer ∧ o.trlValid = true)
  result : i = .parseHeader ∨ i = .decode → o.result = s.result
  results : CommandResults s i o.results

/-- Every command completes the state with outputs of its own (R41, R76). -/
theorem exec_outputs (i : Instr) (s : State) :
    ∃ o, CommandOutputs i s o ∧ exec i s = .next (complete (s.withOutputs o)) := by
  cases i with
  | leRead width =>
    cases h : memRead s.view (operand0 s.eng) width with
    | error f =>
      exact ⟨{ s.outputs with result := 0, results := raiseIn _ _ f s.results },
        ⟨.inl ⟨rfl, rfl⟩, .inl ⟨rfl, rfl⟩, by simp, .error _ f nofun nofun nofun⟩,
        by simp only [exec, execLeRead, h]; rfl⟩
    | ok v =>
      exact ⟨{ s.outputs with result := BitVec.ofNat 64 v },
        ⟨.inl ⟨rfl, rfl⟩, .inl ⟨rfl, rfl⟩, by simp, .kept _ nofun nofun⟩,
        by simp only [exec, execLeRead, h]; rfl⟩
  | checkMarker which =>
    cases h : markerIs s.view (operand0 s.eng) (expectedMarker which s.eng.tmo) with
    | error f =>
      exact ⟨{ s.outputs with result := 0, results := raiseIn _ _ f s.results },
        ⟨.inl ⟨rfl, rfl⟩, .inl ⟨rfl, rfl⟩, by simp, .error _ f nofun nofun nofun⟩,
        by simp only [exec, execCheckMarker, h]; rfl⟩
    | ok m =>
      exact ⟨{ s.outputs with result := if m.1 then 1 else 0 },
        ⟨.inl ⟨rfl, rfl⟩, .inl ⟨rfl, rfl⟩, by simp, .kept _ nofun nofun⟩,
        by simp only [exec, execCheckMarker, h]; rfl⟩
  | segment =>
    exact ⟨{ s.outputs with result := BitVec.ofNat 64 (sliceSize s.eng.len.toNat) },
      ⟨.inl ⟨rfl, rfl⟩, .inl ⟨rfl, rfl⟩, by simp, .kept _ nofun nofun⟩, rfl⟩
  | parseHeader =>
    cases h : Machine.parseHeader s.view (operand0 s.eng) with
    | error f =>
      exact ⟨{ s.outputs with results := raiseIn _ _ f s.results },
        ⟨.inl ⟨rfl, rfl⟩, .inl ⟨rfl, rfl⟩, fun _ => rfl, .error _ f nofun nofun nofun⟩,
        by simp only [exec, execParseHeader, h]; rfl⟩
    | ok hd =>
      exact ⟨{ s.outputs with hdr := hd, hdrValid := true },
        ⟨.inr ⟨rfl, rfl⟩, .inl ⟨rfl, rfl⟩, fun _ => rfl, .kept _ nofun nofun⟩,
        by simp only [exec, execParseHeader, h]; rfl⟩
  | parseTrailer =>
    cases h : readTrailer s.view (operand0 s.eng) with
    | error e =>
      exact ⟨{ s.outputs with result := 0, results := raiseIn _ _ e.failure s.results },
        ⟨.inl ⟨rfl, rfl⟩, .inl ⟨rfl, rfl⟩, by simp, .error _ _ nofun nofun nofun⟩,
        by simp only [exec, execParseTrailer, h]; rfl⟩
    | ok r =>
      exact ⟨{ s.outputs with
          trl := r, trlValid := true,
          result := BitVec.ofNat 64 (payloadBytes r.fragSize s.eng.psm) },
        ⟨.inl ⟨rfl, rfl⟩, .inr ⟨rfl, rfl⟩, by simp, .kept _ nofun nofun⟩,
        by simp only [exec, execParseTrailer, h]; rfl⟩
  | walk =>
    exact ⟨{ s.outputs with result := BitVec.ofNat 64 _, results := _ },
      ⟨.inl ⟨rfl, rfl⟩, .inl ⟨rfl, rfl⟩, by simp, .walk⟩, rfl⟩
  | decode =>
    exact ⟨{ s.outputs with results := decodeOrbits s.view Config.nOrbits 0 s.results },
      ⟨.inl ⟨rfl, rfl⟩, .inl ⟨rfl, rfl⟩, fun _ => rfl, .decode⟩, rfl⟩

/-- The form `exec_outputs` takes once the command's next state is known. -/
theorem outputs_of_exec (i : Instr) (s t : State) (h : exec i s = .next t) :
    ∃ o, CommandOutputs i s o ∧ t = complete (s.withOutputs o) := by
  obtain ⟨o, ho, hex⟩ := exec_outputs i s
  rw [hex] at h
  exact ⟨o, ho, by cases h; rfl⟩

/-! ### The result memories within their capacities (R33, R146) -/

/-- The result memories are within their capacities, and orbit record `n` is orbit `n`. -/
structure Results.Fit (r : Results) : Prop where
  frags : r.frags.length ≤ Config.fragCap
  orbits : r.orbits.length ≤ Config.orbitCap
  errs : r.errs.length ≤ Config.errCap
  index : ∀ n rec, r.orbits[n]? = some rec → rec.orbit = BitVec.ofNat 8 n

/-- Decode gives record `n` the orbit `n`, when the records before its first orbit have theirs (R146). -/
theorem decodeOrbits_index (v : EngineView) (n i : Nat) (r : Results)
    (hlen : r.orbits.length = i)
    (hidx : ∀ k rec, r.orbits[k]? = some rec → rec.orbit = BitVec.ofNat 8 k) :
    ∀ k rec, (decodeOrbits v n i r).orbits[k]? = some rec → rec.orbit = BitVec.ofNat 8 k := by
  induction n generalizing i r with
  | zero => exact hidx
  | succ n ih =>
    rcases decodeOrbits_succ_cases v n i r with ⟨f, -, hrun⟩ | ⟨h, -, hrun⟩ <;> rw [hrun]
    · exact hidx
    · refine ih (i + 1) _ (by simp [commitWalk_orbits, hlen]) fun k rec hk => ?_
      rw [emitOrbit_orbits, commitWalk_orbits, List.getElem?_append] at hk
      split at hk
      · exact hidx k rec hk
      · rw [List.getElem?_singleton] at hk
        split at hk
        · cases hk
          rw [show k = i by omega]
          rfl
        · cases hk

/-- A walk of at most 4095 fragments fits the memories that an issue has emptied (R33, R74). -/
theorem fit_commitWalk_empty (v : EngineView) (orb : BitVec 8) (start pwc ec : Nat)
    (hec : ec ≤ Config.maxEvents) : (commitWalk orb (walk v orb start pwc ec) .empty).Fit where
  frags := by
    rw [commitWalk_frags]
    exact (walkFrom_frags_length_le v orb ec _).trans (hec.trans (by decide))
  orbits := by simp [commitWalk_orbits]
  errs := (commitWalk_errs_length_le orb _ _).trans (by decide)
  index := by simp [commitWalk_orbits]

/-- The four orbits of a decode fit the memories that an issue has emptied (R33, R144, R146). -/
theorem fit_decodeOrbits_empty (v : EngineView) : (decodeOrbits v Config.nOrbits 0 .empty).Fit :=
  have ⟨hfrags, horbits, herrs⟩ := decodeOrbits_bounds v Config.nOrbits 0 .empty
  { frags := hfrags, orbits := horbits, errs := herrs
    index := decodeOrbits_index v _ 0 .empty rfl (by simp) }

theorem eventCountOperand_le (e : Engine) : eventCountOperand e ≤ Config.maxEvents :=
  Nat.and_le_right

/-- Every command that starts on empty result memories leaves them within their capacities. -/
theorem CommandResults.fit {s : State} {i : Instr} {r : Results} (h : CommandResults s i r)
    (hempty : s.results = .empty) : r.Fit := by
  cases h <;> rw [hempty]
  case kept => constructor <;> simp
  case error f _ _ _ => constructor <;> simp [Config.errCap]
  case walk => exact fit_commitWalk_empty _ _ _ _ _ (eventCountOperand_le s.eng)
  case decode => exact fit_decodeOrbits_empty _

end Sys2Proof.Machine

/-! PROOFS. The state's statements: the register map (R22), and what one step can make of a state (R20). -/

namespace Sys2Proof.Machine

/-! ### The register map (R22) -/

/-- The register map with its bounds as numbers. -/
theorem regAt_eq (x : RegIndex) : regAt x =
    if x.toNat < 0x100000 then namedRegs[x.toNat]?
    else if x.toNat < 0x100000 + 8 * 16380 then
      some (.frag ((x.toNat - 0x100000) / 8) ((x.toNat - 0x100000) % 8))
    else if x.toNat < 0x200000 then none
    else if x.toNat < 0x200000 + 16 * 4 then
      some (.orbit ((x.toNat - 0x200000) / 16) ((x.toNat - 0x200000) % 16))
    else if x.toNat < 0x300000 then none
    else if x.toNat < 0x300000 + 8 * 4 then
      some (.err ((x.toNat - 0x300000) / 8) ((x.toNat - 0x300000) % 8))
    else none := rfl

theorem regAt_frag (x : RegIndex) (j f : Nat) (hj : j < 16380) (hf : f < 8)
    (hx : x.toNat = 0x100000 + 8 * j + f) : regAt x = some (.frag j f) := by
  have hrec : (x.toNat - 0x100000) / 8 = j := by omega
  have hfield : (x.toNat - 0x100000) % 8 = f := by omega
  rw [regAt_eq, if_neg (by omega), if_pos (by omega), hrec, hfield]

theorem regAt_orbit (x : RegIndex) (i f : Nat) (hi : i < 4) (hf : f < 16)
    (hx : x.toNat = 0x200000 + 16 * i + f) : regAt x = some (.orbit i f) := by
  have hrec : (x.toNat - 0x200000) / 16 = i := by omega
  have hfield : (x.toNat - 0x200000) % 16 = f := by omega
  rw [regAt_eq, if_neg (by omega), if_neg (by omega), if_neg (by omega), if_pos (by omega), hrec,
    hfield]

theorem regAt_err (x : RegIndex) (e f : Nat) (he : e < 4) (hf : f < 8)
    (hx : x.toNat = 0x300000 + 8 * e + f) : regAt x = some (.err e f) := by
  have hrec : (x.toNat - 0x300000) / 8 = e := by omega
  have hfield : (x.toNat - 0x300000) % 8 = f := by omega
  rw [regAt_eq, if_neg (by omega), if_neg (by omega), if_neg (by omega), if_neg (by omega),
    if_neg (by omega), if_pos (by omega), hrec, hfield]

/-- The four gaps of the register map. -/
def Unmapped (n : Nat) : Prop :=
  (0x18 < n ∧ n < 0x100000) ∨ (0x100000 + 8 * 16380 ≤ n ∧ n < 0x200000) ∨
    (0x200000 + 16 * 4 ≤ n ∧ n < 0x300000) ∨ 0x300000 + 8 * 4 ≤ n

theorem regAt_eq_none_iff (x : RegIndex) : regAt x = none ↔ Unmapped x.toNat := by
  have hlen : namedRegs.length = 25 := rfl
  unfold Unmapped
  rw [regAt_eq]
  split_ifs
  · rw [List.getElem?_eq_none_iff]; omega
  all_goals simp only [true_iff, false_iff]; omega

/-- The registers that take a host write (R21). -/
def writableRegs : List Reg := [.cmd, .status, .config, .bufLen, .arg0, .arg1, .arg2]

theorem namedRegs_readOnly :
    ∀ k : Fin namedRegs.length, 7 ≤ k.val → namedRegs[k] ∉ writableRegs := by decide

/-- From index 7 on, every register is read-only (R22). -/
theorem not_writable_of_regAt (x : RegIndex) (r : Reg) (h7 : 7 ≤ x.toNat)
    (hx : regAt x = some r) : r ∉ writableRegs := by
  rw [regAt_eq] at hx
  split_ifs at hx
  · obtain ⟨hlt, rfl⟩ := List.getElem?_eq_some_iff.1 hx
    exact namedRegs_readOnly ⟨_, hlt⟩ h7
  all_goals cases hx; simp [writableRegs]

/-! ### Host register writes -/

theorem regWrite_readOnly (r : Reg) (v : Word) (s : State) (hr : r ∉ writableRegs) :
    regWrite r v s = s := by
  cases r <;> simp [writableRegs] at hr <;> rfl

/-- A write from index 7 on is ignored: the index is read-only or unmapped (R21, R22). -/
theorem hostWrite_of_seven_le (x : RegIndex) (v : Word) (s : State) (h7 : 7 ≤ x.toNat) :
    hostWrite x v s = s := by
  rw [hostWrite]
  cases hx : regAt x with
  | none => rfl
  | some r => exact regWrite_readOnly r v s (not_writable_of_regAt x r h7 hx)

/-- The indices below 7 one by one. -/
theorem index_lt_seven (x : RegIndex) (h : x.toNat < 7) :
    x = 0 ∨ x = 1 ∨ x = 2 ∨ x = 3 ∨ x = 4 ∨ x = 5 ∨ x = 6 := by bv_omega

/-- A host write goes to CMD, to STATUS, or at most to CONFIG, BUF_LEN and the operands. -/
theorem hostWrite_effect (x : RegIndex) (v : Word) (s : State) :
    (x = 0 ∧ hostWrite x v s = cmdWrite v s) ∨
    (x = 1 ∧ hostWrite x v s = { s with status := statusAtHostWrite v s.status }) ∨
    ∃ c l p q r, hostWrite x v s =
      { s with config := c, bufLen := l, arg0 := p, arg1 := q, arg2 := r } := by
  by_cases h7 : 7 ≤ x.toNat
  · exact .inr (.inr ⟨s.config, s.bufLen, s.arg0, s.arg1, s.arg2, hostWrite_of_seven_le x v s h7⟩)
  · obtain rfl | rfl | rfl | rfl | rfl | rfl | rfl := index_lt_seven x (by omega)
    · exact .inl ⟨rfl, rfl⟩
    · exact .inr (.inl ⟨rfl, rfl⟩)
    · exact .inr (.inr ⟨_, s.bufLen, s.arg0, s.arg1, s.arg2, rfl⟩)
    · exact .inr (.inr ⟨s.config, _, s.arg0, s.arg1, s.arg2, rfl⟩)
    · exact .inr (.inr ⟨s.config, s.bufLen, _, s.arg1, s.arg2, rfl⟩)
    · exact .inr (.inr ⟨s.config, s.bufLen, s.arg0, _, s.arg2, rfl⟩)
    · exact .inr (.inr ⟨s.config, s.bufLen, s.arg0, s.arg1, _, rfl⟩)

/-! ### Host writes of buffer bytes -/

/-- A write of buffer bytes that goes on happens outside BUSY and inside the window (R51, R175). -/
theorem hostBytes_next (off : BitVec 32) (bs : List Byte) (s t : State)
    (h : hostBytes off bs s = .next t) :
    s.status.busy = false ∧ (bs ≠ [] → off.toNat + bs.length ≤ s.bufCap.toNat) ∧
      t = { s with buf := s.buf.writeBytes off.toNat bs } := by
  rw [hostBytes] at h
  split_ifs at h with hbusy hout
  cases h
  exact ⟨by simpa using hbusy, fun hne => not_lt.1 fun hlt => hout ⟨hne, hlt⟩, rfl⟩

/-! ### One step -/

section
variable {s : State} {ms : List Move}

theorem step_nil (h : s.moves = []) : step s = engineStep s := by rw [step, h]

theorem step_engine (h : s.moves = .engine :: ms) :
    step s = engineStep { s with moves := ms } := by rw [step, h]

/-- A `wait` that finds DONE = 0 gives the engine its turn (R179). -/
theorem step_wait_engine (h : s.moves = .wait :: ms) (hdone : s.status.done = false) :
    step s = engineStep s := by
  rw [step, h]
  simp [waitStep, hdone]

/-- A `wait` that finds DONE = 1 ends with that read of STATUS (R81). -/
theorem step_wait_done (h : s.moves = .wait :: ms) (hdone : s.status.done = true) :
    step s = .next (readStatus { s with moves := ms }) := by
  rw [step, h]
  simp [waitStep, hdone]

theorem step_wr {x : RegIndex} {v : Word} (h : s.moves = .wr x v :: ms) :
    step s = .next (hostWrite x v { s with moves := ms }) := by rw [step, h]

theorem step_rd {x : RegIndex} (h : s.moves = .rd x :: ms) :
    step s = .next (hostRead x { s with moves := ms }) := by rw [step, h]

theorem step_rst (h : s.moves = .rst :: ms) :
    step s = .next (resetCore { s with moves := ms }) := by rw [step, h]

end

/-- All that a step can make of the state `s`: whatever move it takes, the moves after it are `ms`. -/
inductive StepEffect (s : State) : State → Prop
  /-- The core keeps its state, but for registers that only the host reads or writes. -/
  | quiet (ms : List Move) (c : ConfigReg) (l p q r : BitVec 32) (w : Word) (n : Nat) :
      StepEffect s { s with
        moves := ms, config := c, bufLen := l, arg0 := p, arg1 := q, arg2 := r, rdata := w,
        draws := n }
  /-- The engine executes the latched command (R41). -/
  | command (ms : List Move) (i : Instr) (o : Outputs) (hrun : s.eng.phase = .run)
      (hfetch : fetch s.eng = .ok i) (ho : CommandOutputs i { s with moves := ms } o) :
      StepEffect s (complete ({ s with moves := ms }.withOutputs o))
  | overrun (ms : List Move) (hbusy : s.status.busy = true) :
      StepEffect s (Machine.overrun { s with moves := ms })
  | illegal (ms : List Move) (c : IllCause) (hbusy : s.status.busy = false) :
      StepEffect s (Machine.illegal c { s with moves := ms })
  | issue (ms : List Move) (v : Word) (i : Instr) (hmoves : s.moves = .wr 0 v :: ms)
      (hbusy : s.status.busy = false) (hdecode : decode v = .ok i) (hlen : s.bufLen ≤ s.bufCap) :
      StepEffect s (Machine.issue v { s with moves := ms })
  | statusWrite (ms : List Move) (v : Word) (hmoves : s.moves = .wr 1 v :: ms) :
      StepEffect s { s with moves := ms, status := statusAtHostWrite v s.status }
  | bytes (ms : List Move) (off : BitVec 32) (bs : List Byte) (hmoves : s.moves = .bytes off bs :: ms)
      (hbusy : s.status.busy = false)
      (hwindow : bs ≠ [] → off.toNat + bs.length ≤ s.bufCap.toNat) :
      StepEffect s { s with moves := ms, buf := s.buf.writeBytes off.toNat bs }
  | reset (ms : List Move) (hmoves : s.moves = .rst :: ms) :
      StepEffect s (resetCore { s with moves := ms })

/-- The engine's turn keeps the state or executes the latched command. -/
theorem StepEffect.of_engineStep (s t : State) (ms : List Move)
    (h : engineStep { s with moves := ms } = .next t) : StepEffect s t := by
  rcases engineStep_cases { s with moves := ms } with
    ⟨-, hstep⟩ | ⟨hrun, i, hfetch, hstep⟩ | ⟨-, c, -, hstep⟩ <;> rw [hstep] at h
  · cases h
    exact .quiet ms s.config s.bufLen s.arg0 s.arg1 s.arg2 s.rdata s.draws
  · obtain ⟨o, ho, rfl⟩ := outputs_of_exec i _ t h
    exact .command ms i o hrun hfetch ho
  · cases h

/-- A write to CMD is one of R155's four outcomes. -/
theorem StepEffect.of_cmdWrite (s : State) (ms : List Move) (v : Word)
    (hmoves : s.moves = .wr 0 v :: ms) : StepEffect s (cmdWrite v { s with moves := ms }) := by
  rcases cmdWrite_cases v { s with moves := ms } with
    ⟨hbusy, h⟩ | ⟨hbusy, c, -, h⟩ | ⟨hbusy, -, -, h⟩ | ⟨hbusy, ⟨i, hdecode⟩, hlen, h⟩ <;> rw [h]
  · exact .overrun ms hbusy
  · exact .illegal ms c hbusy
  · exact .illegal ms .bufLen hbusy
  · exact .issue ms v i hmoves hbusy hdecode hlen

/-- A step that goes on has one of the eight effects (R20). -/
theorem StepEffect.of_step (s t : State) (h : step s = .next t) : StepEffect s t := by
  rcases step_cases s with ⟨-, hstep⟩ | ⟨ms, -, hstep⟩ | ⟨ms, -, hstep⟩ | ⟨x, v, ms, hmoves, hstep⟩ |
    ⟨x, ms, -, hstep⟩ | ⟨off, bs, ms, hmoves, hstep⟩ | ⟨ms, hmoves, hstep⟩ <;> rw [hstep] at h
  · exact .of_engineStep s t s.moves h
  · exact .of_engineStep s t ms h
  · rw [waitStep] at h
    split at h
    · cases h
      exact .quiet ms s.config s.bufLen s.arg0 s.arg1 s.arg2 _ s.draws
    · exact .of_engineStep s t s.moves h
  · cases h
    rcases hostWrite_effect x v { s with moves := ms } with
      ⟨rfl, hw⟩ | ⟨rfl, hw⟩ | ⟨c, l, p, q, r, hw⟩ <;> rw [hw]
    · exact .of_cmdWrite s ms v hmoves
    · exact .statusWrite ms v hmoves
    · exact .quiet ms c l p q r s.rdata s.draws
  · cases h
    obtain ⟨w, n, hr⟩ := hostRead_frame x { s with moves := ms }
    rw [hr]
    exact .quiet ms s.config s.bufLen s.arg0 s.arg1 s.arg2 w n
  · obtain ⟨hbusy, hwindow, rfl⟩ := hostBytes_next off bs _ t h
    exact .bytes ms off bs hmoves hbusy hwindow
  · cases h
    exact .reset ms hmoves

end Sys2Proof.Machine

/-! PROOFS. The state's statements: what every step keeps, by cases on what a step can make of the state. -/

namespace Sys2Proof.Machine

/-! ### The invariant, effect by effect -/

section
variable {s : State} (ms : List Move)

/-- The invariant does not speak of the registers that only the host reads or writes. -/
theorem MachineInv.quiet (h : MachineInv s) (c : ConfigReg) (l p q r : BitVec 32) (w : Word)
    (n : Nat) : MachineInv { s with
      moves := ms, config := c, bufLen := l, arg0 := p, arg1 := q, arg2 := r, rdata := w,
      draws := n } :=
  { h with }

theorem MachineInv.statusWrite (h : MachineInv s) (v : Word) :
    MachineInv { s with moves := ms, status := statusAtHostWrite v s.status } :=
  { h with
    idleClean := fun hbusy hdone => by
      obtain ⟨hres, herr, hill, hovr, hvalid⟩ := h.idleClean hbusy hdone
      exact ⟨hres, herr, hill, by simp [statusAtHostWrite, hovr], hvalid⟩ }

theorem MachineInv.overrun (h : MachineInv s) (hbusy : s.status.busy = true) :
    MachineInv (overrun { s with moves := ms }) :=
  { h with idleClean := fun hidle => by simp [hbusy] at hidle }

/-- An illegal command counts as completed, and the core stays idle (R75). -/
theorem MachineInv.illegal (h : MachineInv s) (c : IllCause) (hbusy : s.status.busy = false) :
    MachineInv (illegal c { s with moves := ms }) :=
  have hidle : ¬ s.eng.phase = .run := fun hrun => by simp [h.busyIffRun.2 hrun] at hbusy
  { h with
    busyNotDone := fun hb => by simp [hbusy] at hb
    runClean := fun hrun => absurd hrun hidle
    idleClean := fun _ hdone => nomatch hdone
    illDone := fun _ => ⟨rfl, rfl⟩
    errFlag := fun _ hill => nomatch hill }

/-- An issue latches the legal command and clears what the last one left (R74). -/
theorem MachineInv.issue (h : MachineInv s) (v : Word) (i : Instr) (hdecode : decode v = .ok i)
    (hlen : s.bufLen ≤ s.bufCap) : MachineInv (issue v { s with moves := ms }) where
  bufCanonical := h.bufCanonical
  bufInWindow := h.bufInWindow
  busyIffRun := by simp
  busyNotDone _ := rfl
  runLegal _ := ⟨i, fetch_issue v _ i hdecode, wellFormed_of_decode v i hdecode⟩
  runInWindow _ := hlen
  runClean _ := ⟨rfl, rfl, rfl, rfl⟩
  idleClean hbusy := nomatch hbusy
  illDone hill := nomatch hill
  errFlag hdone := nomatch hdone
  fragBound := Nat.zero_le _
  orbitBound := Nat.zero_le _
  errBound := Nat.zero_le _
  orbitIndex := by simp

/-- A command that began on clear result memories completes with ERR as its records say (R74, R76). -/
theorem MachineInv.command (h : MachineInv s) (hrun : s.eng.phase = .run) (i : Instr) (o : Outputs)
    (ho : CommandOutputs i { s with moves := ms } o) :
    MachineInv (complete ({ s with moves := ms }.withOutputs o)) :=
  have ⟨hempty, _, hill, _⟩ := h.runClean hrun
  have hfit : o.results.Fit := ho.results.fit hempty
  { bufCanonical := h.bufCanonical
    bufInWindow := h.bufInWindow
    busyIffRun := by simp
    busyNotDone := nofun
    runLegal := nofun
    runInWindow := nofun
    runClean := nofun
    idleClean := nofun
    illDone := fun hill' => by simp [hill] at hill'
    errFlag := fun _ _ => rfl
    fragBound := hfit.frags
    orbitBound := hfit.orbits
    errBound := hfit.errs
    orbitIndex := hfit.index }

theorem MachineInv.bytes (h : MachineInv s) (off : Nat) (bs : List Byte)
    (hwindow : bs ≠ [] → off + bs.length ≤ s.bufCap.toNat) :
    MachineInv { s with moves := ms, buf := s.buf.writeBytes off bs } :=
  { h with
    bufCanonical := writeBytes_wf _ _ _ h.bufCanonical
    bufInWindow := fun c hc => by
      rcases mem_writeBytes _ _ _ c hc with ⟨hlo, hhi⟩ | hold
      · have hne : bs ≠ [] := by rintro rfl; simp at hhi; omega
        exact hhi.trans_le (hwindow hne)
      · exact h.bufInWindow c hold }

/-- The reset values meet the invariant, whatever the state before, when the buffer does (R42). -/
theorem machineInv_resetCore (hbuf : s.buf.wf) (hwindow : ∀ c ∈ s.buf, c.1 < s.bufCap.toNat) :
    MachineInv (resetCore s) where
  bufCanonical := hbuf
  bufInWindow := hwindow
  busyIffRun := by simp [Status.reset, Engine.reset]
  busyNotDone := nofun
  runLegal := nofun
  runInWindow := nofun
  runClean := nofun
  idleClean _ _ := ⟨rfl, rfl, rfl, rfl, rfl, rfl⟩
  illDone := nofun
  errFlag := nofun
  fragBound := Nat.zero_le _
  orbitBound := Nat.zero_le _
  errBound := Nat.zero_le _
  orbitIndex := by simp

end

/-- OVR after a STATUS write (R26). -/
theorem ovr_statusAtHostWrite (v : Word) (st : Status) :
    (statusAtHostWrite v st).ovr = if v.getLsbD 4 then false else st.ovr := by
  rw [statusAtHostWrite]
  cases v.getLsbD 4 <;> simp

end Sys2Proof.Machine

namespace Sys2Proof
open Machine

/-- Settles O56: each effect that a step can have keeps the invariant. -/
theorem stepKeepsInv : Obligations.StepKeepsInv := by
  intro s t h hstep
  cases StepEffect.of_step s t hstep with
  | quiet ms c l p q r w n => exact h.quiet ms c l p q r w n
  | command ms i o hrun _ ho => exact h.command ms hrun i o ho
  | overrun ms hbusy => exact h.overrun ms hbusy
  | illegal ms c hbusy => exact h.illegal ms c hbusy
  | issue ms v i _ _ hdecode hlen => exact h.issue ms v i hdecode hlen
  | statusWrite ms v _ => exact h.statusWrite ms v
  | bytes ms off bs _ _ hwindow => exact h.bytes ms off.toNat bs hwindow
  | reset ms _ => exact machineInv_resetCore h.bufCanonical h.bufInWindow

/-- Settles O55: power-up is a reset with no byte written. -/
theorem resetInv : Obligations.ResetInv :=
  machineInv_resetCore (s := State.reset) List.Pairwise.nil nofun

/-- Settles O9: of the effects of a step only an issue sets BUSY. -/
theorem onlyLegalCmdWriteStarts : Obligations.OnlyLegalCmdWriteStarts := by
  intro s t hstep hidle hbusy
  cases StepEffect.of_step s t hstep with
  | issue ms v i hmoves _ hdecode hlen => exact ⟨v, ms, i, hmoves, hdecode, hlen⟩
  | command => cases hbusy
  | reset => cases hbusy
  | overrun _ hbusy' => simp [hidle] at hbusy'
  | quiet => simp [hidle] at hbusy
  | illegal => simp [hidle] at hbusy
  | statusWrite => simp [statusAtHostWrite, hidle] at hbusy
  | bytes => simp [hidle] at hbusy

/-- Settles O58: of the effects of a step only a write of buffer bytes touches the buffer. -/
theorem onlyHostChangesBuffer : Obligations.OnlyHostChangesBuffer := by
  intro s t hstep
  cases StepEffect.of_step s t hstep with
  | bytes ms off bs hmoves => exact ⟨rfl, fun hno => absurd hmoves (hno off bs ms)⟩
  | _ => exact ⟨rfl, fun _ => rfl⟩

/-- Settles O59: of the effects of a step only a reset and the command that owns the registers write them. -/
theorem headerAndTrailerSurvive : Obligations.HeaderAndTrailerSurvive := by
  intro s t hstep
  cases StepEffect.of_step s t hstep with
  | reset ms hmoves => exact ⟨fun _ => .inl ⟨ms, hmoves⟩, fun _ => .inl ⟨ms, hmoves⟩⟩
  | command ms i o hrun hfetch ho =>
    refine ⟨fun hne => .inr ?_, fun hne => .inr ?_⟩
    · rcases ho.hdr with ⟨hkept, -⟩ | ⟨rfl, hvalid⟩
      · exact absurd hkept hne
      · exact ⟨hrun, hfetch, hvalid⟩
    · rcases ho.trl with ⟨hkept, -⟩ | ⟨rfl, hvalid⟩
      · exact absurd hkept hne
      · exact ⟨hrun, hfetch, hvalid⟩
  | _ => exact ⟨fun hne => absurd rfl hne, fun hne => absurd rfl hne⟩

/-- Settles O15: of the effects of a step only a reset and a STATUS write touch OVR downwards. -/
theorem ovrClearedOnlyByHostOrReset : Obligations.OvrClearedOnlyByHostOrReset := by
  constructor
  · intro s t hstep hset hclear
    cases StepEffect.of_step s t hstep with
    | reset ms hmoves => exact .inr ⟨ms, hmoves⟩
    | statusWrite ms v hmoves =>
      exact .inl ⟨v, ms, hmoves, by simpa [statusAtHostWrite, hset] using hclear⟩
    | overrun => cases hclear
    | command => simp [hset] at hclear
    | issue => simp [hset] at hclear
    | illegal => simp [hset] at hclear
    | quiet => simp [hset] at hclear
    | bytes => simp [hset] at hclear
  · intro s v ms hmoves
    rw [step_wr hmoves, ← ovr_statusAtHostWrite]
    rfl

end Sys2Proof

/-! PROOFS. The state's statements: the commands as a whole (R41, R76, R78), and the turn of the engine. -/

namespace Sys2Proof.Machine

section
variable {s : State} {i : Instr} {r : Results}

/-- FRAG_MEM is written by WALK and DECODE only. -/
theorem CommandResults.frags_eq (h : CommandResults s i r) (hwalk : i ≠ .walk)
    (hdecode : i ≠ .decode) : r.frags = s.results.frags := by
  cases h with
  | walk => exact absurd rfl hwalk
  | decode => exact absurd rfl hdecode
  | _ => rfl

/-- ORBIT_MEM is written by DECODE only. -/
theorem CommandResults.orbits_eq (h : CommandResults s i r) (hdecode : i ≠ .decode) :
    r.orbits = s.results.orbits := by
  cases h with
  | walk => exact commitWalk_orbits _ _ _
  | decode => exact absurd rfl hdecode
  | _ => rfl

/-- SEGMENT writes no result memory (R101). -/
theorem CommandResults.eq_of_segment (h : CommandResults s .segment r) : r = s.results := by
  cases h with
  | kept => rfl
  | error _ _ hsegment => exact absurd rfl hsegment

end

/-! ### The live registers (R78) -/

/-- The state with other values in the live CONFIG, BUF_LEN and operand registers. -/
def State.withLive (s : State) (c : ConfigReg) (l x y z : BitVec 32) : State :=
  { s with config := c, bufLen := l, arg0 := x, arg1 := y, arg2 := z }

/-- The live registers are no input of a command: from other values of them it answers the same
next state but for these values. -/
theorem exec_withLive (i : Instr) (s t : State) (c : ConfigReg) (l x y z : BitVec 32)
    (h : exec i s = .next t) : exec i (s.withLive c l x y z) = .next (t.withLive c l x y z) := by
  have hview : (s.withLive c l x y z).view = s.view := rfl
  have heng : (s.withLive c l x y z).eng = s.eng := rfl
  cases i with
  | leRead width =>
    simp only [exec, execLeRead, hview, heng] at h ⊢
    split at h <;> cases h <;> rfl
  | checkMarker which =>
    simp only [exec, execCheckMarker, hview, heng] at h ⊢
    split at h <;> cases h <;> rfl
  | segment => cases h; rfl
  | parseHeader =>
    simp only [exec, execParseHeader, hview, heng] at h ⊢
    split at h <;> cases h <;> rfl
  | parseTrailer =>
    simp only [exec, execParseTrailer, hview, heng] at h ⊢
    split at h <;> cases h <;> rfl
  | walk => cases h; rfl
  | decode => cases h; rfl

/-! ### The engine's turn -/

theorem engineStep_run (s : State) (i : Instr) (hrun : s.eng.phase = .run)
    (hfetch : fetch s.eng = .ok i) : engineStep s = exec i s := by
  rw [engineStep, hrun, hfetch]

/-! ### STATUS and CONFIG as words (R24, R27) -/

/-- The bits of STATUS, bit 0 first; the bits above them are 0. -/
def statusBits (st : Status) : List Bool :=
  [st.busy, st.done, st.err, st.ill, st.ovr, st.hdrValid, st.trlValid, false,
    st.illCause.getLsbD 0, st.illCause.getLsbD 1]

theorem getLsbD_statusWord (st : Status) (k : Nat) :
    (statusWord st).getLsbD k = ((statusBits st)[k]?).getD false := by
  simp only [statusWord, BitVec.getLsbD_append]
  match k with
  | 0 | 1 | 2 | 3 | 4 | 5 | 6 | 7 | 8 | 9 => simp [statusBits]
  | k + 10 => simp [statusBits]

/-- The bits of CONFIG: TMO, PSM, and 0 above. -/
theorem getLsbD_configWord (c : ConfigReg) (k : Nat) :
    (configWord c).getLsbD k = (([c.tmo, c.psm] : List Bool)[k]?).getD false := by
  simp only [configWord, BitVec.getLsbD_append]
  match k with
  | 0 | 1 => simp
  | k + 2 => simp

theorem statusWord_reset : statusWord .reset = 0 := by decide

theorem configWord_reset : configWord .reset = 0 := by decide

/-- ILL_CAUSE is all of STATUS above bit 7 (R24). -/
theorem statusWord_shift (st : Status) : statusWord st >>> 8 = st.illCause.setWidth 64 := by
  refine BitVec.eq_of_getLsbD_eq fun k _ => ?_
  rw [BitVec.getLsbD_ushiftRight, getLsbD_statusWord, BitVec.getLsbD_setWidth]
  match k with
  | 0 | 1 => simp [statusBits]
  | k + 2 => simp [statusBits, Nat.add_comm]

theorem configWord_shift (c : ConfigReg) : configWord c >>> 2 = 0 := by
  refine BitVec.eq_of_getLsbD_eq fun k _ => ?_
  rw [BitVec.getLsbD_ushiftRight, getLsbD_configWord, Nat.add_comm]
  simp

end Sys2Proof.Machine

namespace Sys2Proof
open Machine

/-- Settles O51: every command ends in `complete`. -/
theorem everyCommandCompletes : Obligations.EveryCommandCompletes := by
  intro i s
  obtain ⟨o, -, hexec⟩ := exec_outputs i s
  refine ⟨_, hexec, ?_, rfl, rfl, rfl⟩
  rw [complete_err, complete_results, withOutputs_results]
  cases o.results.errs <;> simp

/-- Settles O52: what a command leaves is a completion with outputs of its own. -/
theorem commandFrames : Obligations.CommandFrames := by
  intro i s
  obtain ⟨o, ho, hexec⟩ := exec_outputs i s
  refine ⟨_, hexec, fun _ => rfl, rfl, rfl, rfl, rfl, rfl, rfl, rfl, rfl, rfl, rfl, rfl, rfl, rfl, rfl,
    fun hi => ?_, fun hi => ?_, ho.result, ho.results.frags_eq, ho.results.orbits_eq, ?_⟩
  · exact ho.hdr.resolve_right fun h => hi h.1
  · exact ho.trl.resolve_right fun h => hi h.1
  · rintro rfl
    exact ho.results.eq_of_segment

/-- Settles O54: a command reads the view and the latched copies, which the live registers are no part of. -/
theorem latchedCopiesOnly : Obligations.LatchedCopiesOnly := by
  intro i s c l x y z
  obtain ⟨o, -, hexec⟩ := exec_outputs i s
  exact ⟨_, hexec, exec_withLive i s _ c l x y z hexec⟩

/-- Settles O5: the word decoded is the one the engine fetches. -/
theorem stepRunsLatchedCommand : Obligations.StepRunsLatchedCommand := by
  intro s i hrun hfetch
  refine ⟨fun hm => ?_, fun ms hm => ?_, fun ms hm hdone => ?_⟩
  · rw [step_nil hm, engineStep_run s i hrun hfetch]
  · exact (step_engine hm).trans (engineStep_run _ i hrun hfetch)
  · rw [step_wait_engine hm hdone, engineStep_run s i hrun hfetch]

/-- Settles O11: the engine's turn completes the command, and the next poll finds DONE. -/
theorem waitEnds : Obligations.WaitEnds := by
  intro s ms hinv hrun hmoves
  obtain ⟨i, hfetch, -⟩ := hinv.runLegal hrun
  have hdone : s.status.done = false := hinv.busyNotDone (hinv.busyIffRun.2 hrun)
  obtain ⟨o, -, hexec⟩ := exec_outputs i s
  have hturn : step s = .next (complete (s.withOutputs o)) := by
    rw [step_wait_engine hmoves hdone, engineStep_run s i hrun hfetch, hexec]
  have hpoll := step_wait_done (s := complete (s.withOutputs o)) hmoves rfl
  exact ⟨_, core_run_two s _ _ hturn hpoll, rfl, rfl, rfl, getLsbD_statusWord _ 1⟩

/-- Settles O12: `resetCore` starts from the reset values. -/
theorem resetMove : Obligations.ResetMove := by
  intro s ms hmoves
  exact ⟨_, step_rst hmoves, statusWord_reset, configWord_reset, rfl, rfl, rfl, rfl, rfl, rfl, rfl,
    rfl, rfl, rfl, rfl, rfl, rfl, rfl⟩

/-- Settles O13: bit by bit, and ILL_CAUSE by a shift. -/
theorem statusLayout : Obligations.StatusLayout := by
  intro st
  have hcause := congrArg BitVec.toNat (statusWord_shift st)
  rw [BitVec.toNat_ushiftRight, Nat.shiftRight_eq_div_pow, BitVec.toNat_setWidth_of_le (by decide)]
    at hcause
  exact ⟨getLsbD_statusWord st 0, getLsbD_statusWord st 1, getLsbD_statusWord st 2,
    getLsbD_statusWord st 3, getLsbD_statusWord st 4, getLsbD_statusWord st 5,
    getLsbD_statusWord st 6, getLsbD_statusWord st 7, hcause⟩

/-- Settles O14: bit by bit, and the bits above by a shift. -/
theorem configLayout : Obligations.ConfigLayout := by
  intro c
  have hupper := congrArg BitVec.toNat (configWord_shift c)
  rw [BitVec.toNat_ushiftRight, Nat.shiftRight_eq_div_pow] at hupper
  exact ⟨getLsbD_configWord c 0, getLsbD_configWord c 1, hupper⟩

/-- Settles O24: the two codes are tables. -/
theorem errorCodes : Obligations.ErrorCodes :=
  ⟨rfl, rfl, rfl, rfl, rfl, rfl, rfl, fun _ => rfl⟩

end Sys2Proof

/-! PROOFS. The state's statements: host register reads and writes (R21, R22, R34 to R37). -/

namespace Sys2Proof.Machine

/-! ### Reads -/

theorem hostRead_unmapped (x : RegIndex) (s : State) (hx : regAt x = none) :
    hostRead x s = { s with rdata := 0 } := by rw [hostRead, hx]

theorem hostRead_specified (x : RegIndex) (r : Reg) (v : Word) (s : State) (hx : regAt x = some r)
    (hv : specifiedValue s r = some v) : hostRead x s = { s with rdata := v } := by
  simp only [hostRead, hx, hv]

/-- A read that the spec leaves unspecified draws a free value (R37). -/
theorem hostRead_unspecified (x : RegIndex) (r : Reg) (s : State) (hx : regAt x = some r)
    (hv : specifiedValue s r = none) :
    hostRead x s = { s with rdata := Config.hostReadDraw s.draws, draws := s.draws + 1 } := by
  simp only [hostRead, hx, hv]

theorem specifiedValue_exact (s : State) (r : Reg) (hr : exactWhileBusy r = true) :
    specifiedValue s r = heldValue s r := by simp [specifiedValue, hr]

theorem specifiedValue_idle (s : State) (r : Reg) (hidle : s.status.busy = false) :
    specifiedValue s r = heldValue s r := by simp [specifiedValue, hidle]

theorem specifiedValue_busy (s : State) (r : Reg) (hbusy : s.status.busy = true)
    (hr : exactWhileBusy r = false) : specifiedValue s r = none := by
  simp [specifiedValue, hbusy, hr]

/-- What no register holds is unspecified, BUSY or not. -/
theorem specifiedValue_of_not_held (s : State) (r : Reg) (hr : heldValue s r = none) :
    specifiedValue s r = none := by simp [specifiedValue, hr]

/-- A read of `x` in the state `s` is specified to return `v`. -/
def ReadsAs (s : State) (x : RegIndex) (v : Word) : Prop :=
  ∃ r, regAt x = some r ∧ specifiedValue s r = some v

theorem ReadsAs.of_exact {s : State} {x : RegIndex} {v : Word} (r : Reg) (hx : regAt x = some r)
    (hr : exactWhileBusy r = true) (hv : heldValue s r = some v) : ReadsAs s x v :=
  ⟨r, hx, (specifiedValue_exact s r hr).trans hv⟩

theorem ReadsAs.of_idle {s : State} {x : RegIndex} {v : Word} (hidle : s.status.busy = false)
    (r : Reg) (hx : regAt x = some r) (hv : heldValue s r = some v) : ReadsAs s x v :=
  ⟨r, hx, (specifiedValue_idle s r hidle).trans hv⟩

/-- With no command running, a table of what the registers at some indices hold is a table of what
they read as. -/
theorem ReadsAs.of_table {s : State} (hidle : s.status.busy = false)
    (table : List (RegIndex × Word))
    (h : table.map (fun p => (regAt p.1).bind (heldValue s)) = table.map (fun p => some p.2)) :
    ∀ p ∈ table, ReadsAs s p.1 p.2 := fun p hp =>
  have ⟨r, hx, hv⟩ := Option.bind_eq_some_iff.1 (List.map_inj_left.1 h p hp)
  .of_idle hidle r hx hv

/-- The step that reads `x` changes the moves and what the host has read. -/
theorem ReadsAs.step {s : State} {x : RegIndex} {v : Word} (h : ReadsAs s x v) (ms : List Move) :
    step { s with moves := .rd x :: ms } = .next { s with moves := ms, rdata := v } := by
  obtain ⟨r, hx, hv⟩ := h
  exact congrArg _ (hostRead_specified x r v { s with moves := ms } hx hv)

/-- A register that reads exactly, written and then read (R37, R78): two steps. -/
theorem run_write_read {s u : State} {x : RegIndex} {v w : Word} {ms : List Move}
    (hmoves : s.moves = .wr x v :: .rd x :: ms) (hmovesAfter : u.moves = .rd x :: ms)
    (hwrite : hostWrite x v { s with moves := .rd x :: ms } = u) (hread : ReadsAs u x w) :
    Sys2Proof.core.run 2 s = .next { u with moves := ms, rdata := w } := by
  refine core_run_two s u _ ((step_wr hmoves).trans (congrArg _ hwrite)) ?_
  have := hread.step ms
  rwa [← hmovesAfter] at this

/-! ### Values -/

/-- A count within its register's width reads as the number of records. -/
theorem setWidth_ofNat_count (m n : Nat) (hm : m ≤ 64) (hn : n < 2 ^ m) :
    (BitVec.ofNat m n).setWidth 64 = BitVec.ofNat 64 n := by
  apply BitVec.eq_of_toNat_eq
  rw [BitVec.toNat_setWidth_of_le hm, BitVec.toNat_ofNat, BitVec.toNat_ofNat, Nat.mod_eq_of_lt hn,
    Nat.mod_eq_of_lt (hn.trans_le (Nat.pow_le_pow_right (by decide) hm))]

theorem toNat_setWidth_setWidth (v : Word) (n : Nat) (hn : n ≤ 64) :
    ((v.setWidth n).setWidth 64).toNat = v.toNat % 2 ^ n := by
  rw [BitVec.toNat_setWidth_of_le hn, BitVec.toNat_setWidth]

/-- CONFIG reads as the low two bits of the value written to it (R27). -/
theorem configWord_configOfWord (v : Word) :
    configWord (configOfWord v) = (v.setWidth 2).setWidth 64 := by
  refine BitVec.eq_of_getLsbD_eq fun k _ => ?_
  rw [getLsbD_configWord]
  match k with
  | 0 | 1 => simp [configOfWord]
  | k + 2 => simp

theorem toNat_configWord_configOfWord (v : Word) :
    (configWord (configOfWord v)).toNat = v.toNat % 4 :=
  (congrArg _ (configWord_configOfWord v)).trans (toNat_setWidth_setWidth v 2 (by decide))

/-! ### Valid records (R34 to R36) -/

section
variable {s : State} {n f : Nat} (hidle : s.status.busy = false)
include hidle

theorem readsAs_fragField {r : FragRec} (hn : n < 16380) (hr : s.results.frags[n]? = some r)
    (hf : f < 8) : ReadsAs s (BitVec.ofNat 24 (0x100000 + 8 * n + f)) (fragField r f) :=
  .of_idle hidle (.frag n f) (regAt_frag _ n f hn hf (by simp; omega)) (by simp [heldValue, hr])

theorem readsAs_orbitField {r : OrbitRec} (hn : n < 4) (hr : s.results.orbits[n]? = some r)
    (hf : f < 16) : ReadsAs s (BitVec.ofNat 24 (0x200000 + 16 * n + f)) (orbitField r f) :=
  .of_idle hidle (.orbit n f) (regAt_orbit _ n f hn hf (by simp; omega)) (by simp [heldValue, hr])

theorem readsAs_errField {r : ErrRec} (hn : n < 4) (hr : s.results.errs[n]? = some r)
    (hf : f < 8) : ReadsAs s (BitVec.ofNat 24 (0x300000 + 8 * n + f)) (errField r f) :=
  .of_idle hidle (.err n f) (regAt_err _ n f hn hf (by simp; omega)) (by simp [heldValue, hr])

end

end Sys2Proof.Machine

namespace Sys2Proof
open Machine

/-- Settles O16: each of the five registers stands at its index, and its write changes it alone. -/
theorem configAndOperandWrites : Obligations.ConfigAndOperandWrites := fun _ _ _ =>
  ⟨fun h => step_wr h, fun h => step_wr h, fun h => step_wr h, fun h => step_wr h, fun h => step_wr h⟩

/-- Settles O17: no register from index 7 on takes a write. -/
theorem ignoredWrites : Obligations.IgnoredWrites := by
  intro s x v ms h7 hmoves
  rw [step_wr hmoves, hostWrite_of_seven_le x v _ h7]

/-- Settles O18: one lemma for each memory, and one for the gaps. -/
theorem registerMap : Obligations.RegisterMap := fun x =>
  ⟨regAt_frag x, regAt_orbit x, regAt_err x, regAt_eq_none_iff x⟩

/-- Settles O19: no register stands in a gap. -/
theorem unmappedReads : Obligations.UnmappedReads := by
  intro s x ms hmoves hgap
  rw [step_rd hmoves, hostRead_unmapped x _ ((regAt_eq_none_iff x).2 hgap)]

/-- Settles O20: the four premises each leave the value unspecified, and STATUS is exact. -/
theorem unspecifiedReads : Obligations.UnspecifiedReads := by
  intro s x r ms hmoves hx
  refine ⟨fun hfree => ?_, fun hstatus => ?_⟩
  · have hnone : specifiedValue { s with moves := ms } r = none := by
      rcases hfree with ⟨j, f, rfl, hj⟩ | ⟨i, f, rfl, hi⟩ | ⟨e, f, rfl, he⟩ | ⟨hbusy, hr⟩
      · exact specifiedValue_of_not_held _ _ (by simpa [heldValue] using hj)
      · exact specifiedValue_of_not_held _ _ (by simpa [heldValue] using hi)
      · exact specifiedValue_of_not_held _ _ (by simpa [heldValue] using he)
      · refine specifiedValue_busy _ _ hbusy ?_
        cases r <;> simp at hr <;> rfl
    rw [step_rd hmoves, hostRead_unspecified x r _ hx hnone]
  · subst hstatus
    rw [step_rd hmoves, hostRead_exact x .status _ _ hx rfl rfl]

/-- Settles O21: the six registers read exactly in every state, also in the one right after a write. -/
theorem exactReads : Obligations.ExactReads := by
  intro s ms
  constructor
  · have hreads : ∀ p ∈ ([(1, statusWord s.status), (2, configWord s.config),
        (3, s.bufLen.setWidth 64), (4, s.arg0.setWidth 64), (5, s.arg1.setWidth 64),
        (6, s.arg2.setWidth 64)] : List (RegIndex × Word)), ReadsAs s p.1 p.2 := by
      simp only [List.forall_mem_cons]
      exact ⟨.of_exact .status rfl rfl rfl, .of_exact .config rfl rfl rfl,
        .of_exact .bufLen rfl rfl rfl, .of_exact .arg0 rfl rfl rfl, .of_exact .arg1 rfl rfl rfl,
        .of_exact .arg2 rfl rfl rfl, nofun⟩
    exact fun p hp => (hreads p hp).step ms
  · intro x v hmoves
    refine ⟨?_, fun hx => ?_⟩
    · rintro rfl
      exact ⟨_, run_write_read hmoves rfl rfl (.of_exact .config rfl rfl rfl),
        toNat_configWord_configOfWord v, rfl, rfl⟩
    · have hlow := toNat_setWidth_setWidth v 32 (by decide)
      obtain rfl | rfl | rfl | rfl : x = 3 ∨ x = 4 ∨ x = 5 ∨ x = 6 := by simpa using hx
      · exact ⟨_, run_write_read hmoves rfl rfl (.of_exact .bufLen rfl rfl rfl), hlow, rfl, rfl⟩
      · exact ⟨_, run_write_read hmoves rfl rfl (.of_exact .arg0 rfl rfl rfl), hlow, rfl, rfl⟩
      · exact ⟨_, run_write_read hmoves rfl rfl (.of_exact .arg1 rfl rfl rfl), hlow, rfl, rfl⟩
      · exact ⟨_, run_write_read hmoves rfl rfl (.of_exact .arg2 rfl rfl rfl), hlow, rfl, rfl⟩

/-- Settles O22: the table is what the named registers hold, once the counts are read as the numbers
of records. -/
theorem namedRegisterReads : Obligations.NamedRegisterReads := by
  intro s ms hidle hfrags horbits herrs
  rw [← setWidth_ofNat_count 15 s.results.frags.length (by decide) (by omega),
    ← setWidth_ofNat_count 3 s.results.orbits.length (by decide) (by omega),
    ← setWidth_ofNat_count 3 s.results.errs.length (by decide) (by omega)]
  intro p hp
  exact (ReadsAs.of_table hidle _ rfl p hp).step ms

/-- Settles O23: each layout lists the fields of its record in order. -/
theorem recordReads : Obligations.RecordReads := by
  intro s n ms hidle
  refine ⟨fun r hn hr p hp => ?_, fun r hn hr p hp => ?_, fun r hn hr p hp => ?_⟩
  · obtain ⟨hf, hv⟩ : p.1 < 8 ∧ fragField r p.1 = p.2 := by
      revert p; simp [fragField]
    exact hv ▸ (readsAs_fragField hidle hn hr hf).step ms
  · obtain ⟨hf, hv⟩ : p.1 < 16 ∧ orbitField r p.1 = p.2 := by
      revert p; simp [orbitField]
    exact hv ▸ (readsAs_orbitField hidle hn hr hf).step ms
  · obtain ⟨hf, hv⟩ : p.1 < 8 ∧ errField r p.1 = p.2 := by
      revert p; simp [errField]
    exact hv ▸ (readsAs_errField hidle hn hr hf).step ms

end Sys2Proof

/-! PROOFS. The memory's statements: the bytes of the buffer, and the fields and markers read from them (R50 to R56). -/

namespace Sys2Proof.Machine

/-! ### What the engine reads at an offset (R52) -/

theorem byteAt_of_lookup_some {v : EngineView} {a : Nat} {b : Byte}
    (h : v.buf.lookup a = some b) : byteAt v a = b := by rw [byteAt, h]

theorem byteAt_of_lookup_none {v : EngineView} {a : Nat} (h : v.buf.lookup a = none) :
    byteAt v a = Config.unwrittenByte v.seed a := by rw [byteAt, h]

/-- Under one draw number, a byte depends on the host's record of it only. -/
theorem byteAt_congr {v w : EngineView} {a : Nat} (hseed : v.seed = w.seed)
    (h : v.buf.lookup a = w.buf.lookup a) : byteAt v a = byteAt w a := by
  rw [byteAt, byteAt, hseed, h]

/-! ### The move that writes buffer bytes (R51, R175) -/

theorem step_bytes {s : State} {off : BitVec 32} {bs : List Byte} {ms : List Move}
    (h : s.moves = .bytes off bs :: ms) : step s = hostBytes off bs { s with moves := ms } := by
  rw [step, h]

section
variable {off : BitVec 32} {bs : List Byte} {s : State}

theorem hostBytes_busy (hbusy : s.status.busy = true) :
    hostBytes off bs s = .refused .bufferWriteWhileBusy := by simp [hostBytes, hbusy]

theorem hostBytes_outside (hidle : s.status.busy = false) (hne : bs ≠ [])
    (hout : s.bufCap.toNat < off.toNat + bs.length) :
    hostBytes off bs s = .fault .outsideBufferWindow := by simp [hostBytes, hidle, hne, hout]

theorem hostBytes_inside (hidle : s.status.busy = false)
    (hin : off.toNat + bs.length ≤ s.bufCap.toNat) :
    hostBytes off bs s = .next { s with buf := s.buf.writeBytes off.toNat bs } := by
  simp [hostBytes, hidle, Nat.not_lt.2 hin]

end

/-! ### Fields within fields (R53) -/

/-- A field of `m + n` bytes is its low `m` bytes, with the `n` bytes behind them above. -/
theorem fieldValue_add (v : EngineView) (a m n : Nat) :
    fieldValue v a (m + n) = fieldValue v a m + 2 ^ (8 * m) * fieldValue v (a + m) n := by
  rw [fieldValue, Finset.sum_range_add, fieldValue, fieldValue, Finset.mul_sum]
  congr 1
  refine Finset.sum_congr rfl fun i _ => ?_
  rw [Nat.add_assoc, Nat.mul_add, pow_add]
  ring

/-- The high bytes of a field are the field that they form (R56). -/
theorem fieldValue_div (v : EngineView) (a m n : Nat) :
    fieldValue v a (m + n) / 2 ^ (8 * m) = fieldValue v (a + m) n := by
  rw [fieldValue_add, Nat.add_mul_div_left _ _ (by positivity),
    Nat.div_eq_of_lt (fieldValue_lt v a m), Nat.zero_add]

theorem fieldValue_one (v : EngineView) (a : Nat) : fieldValue v a 1 = (byteAt v a).toNat := by
  simp [fieldValue]

theorem fieldValue_two (v : EngineView) (a : Nat) :
    fieldValue v a 2 = (byteAt v a).toNat + 256 * (byteAt v (a + 1)).toNat := by
  rw [← fieldValue_one v a, ← fieldValue_one v (a + 1)]
  exact fieldValue_add v a 1 1

/-- Two bytes are the ones of a little-endian value exactly when they match it in order (R94). -/
theorem fieldValue_two_eq_iff (v : EngineView) (a : Nat) (lo hi : Byte) :
    fieldValue v a 2 = lo.toNat + 256 * hi.toNat ↔ byteAt v a = lo ∧ byteAt v (a + 1) = hi := by
  have hlo := lo.isLt
  have hbyte := (byteAt v a).isLt
  rw [fieldValue_two, ← BitVec.toNat_inj, ← BitVec.toNat_inj]
  omega

/-! ### The values of a trailer's fields (R120, R121) -/

theorem eventId_trailerAt (v : EngineView) (t : Nat) :
    (trailerAt v t).eventId.toNat = fieldValue v (t + 8) 8 % 2 ^ 44 := by
  rw [trailerAt, BitVec.toNat_ofNat, Nat.mod_mod]

theorem crc_trailerAt (v : EngineView) (t : Nat) :
    (trailerAt v t).crc.toNat = fieldValue v (t + 14) 2 := ofNat16_toNat_fieldValue v (t + 14)

end Sys2Proof.Machine

namespace Sys2Proof
open Machine

/-- Settles O26: `byteAt` by cases on the host's record, and the empty record of `State.reset`. -/
theorem engineReadsHostBytes : Obligations.EngineReadsHostBytes :=
  ⟨fun _ _ => ⟨fun _ => byteAt_of_lookup_some, byteAt_of_lookup_none⟩, fun _ => ⟨rfl, rfl⟩,
    lookup_nil⟩

/-- Settles O25: the next state's buffer is `writeBytes`, whose lookups the engine's bytes follow. -/
theorem bufferWrites : Obligations.BufferWrites := by
  intro s off bs ms hmoves
  rw [step_bytes hmoves]
  refine ⟨fun hbusy => hostBytes_busy hbusy,
    fun hidle hne hout => hostBytes_outside hidle hne hout,
    fun hidle hin => ⟨s.buf.writeBytes off.toNat bs, hostBytes_inside hidle hin, ?_⟩⟩
  have hinside := fun i (h : i < bs.length) => lookup_writeBytes_inside s.buf off.toNat i bs h
  have houtside := fun a (h : a < off.toNat ∨ off.toNat + bs.length ≤ a) =>
    lookup_writeBytes_outside s.buf off.toNat a bs h
  refine ⟨hinside, houtside, fun v hbuf => ?_⟩
  rw [← hbuf] at hinside houtside
  exact ⟨fun i h => byteAt_of_lookup_some (hinside i h),
    fun a h => byteAt_congr rfl (houtside a h)⟩

/-- Settles O28: the expected marker is the little-endian value of the two bytes. -/
theorem markerBytes : Obligations.MarkerBytes := by
  intro v a which tmo bytes
  have hbytes : (expectedMarker which tmo).toNat = bytes.1.toNat + 256 * bytes.2.toNat := by
    cases which <;> cases tmo <;> rfl
  refine ⟨fun hin => ⟨_, _, markerIs_ok v a _ hin, ?_, ?_⟩, markerIs_error v a _⟩
  · rw [decide_eq_true_iff, hbytes, fieldValue_two_eq_iff]
  · rw [ofNat16_toNat_fieldValue, fieldValue_two]

/-- Settles O29: the crc's two bytes are the high two of the eight at offset 8. -/
theorem eventIdAndCrcShareBytes : Obligations.EventIdAndCrcShareBytes := fun v t hin =>
  ⟨_, _, _, memRead_ok v (t + 8) 8 (by omega), memRead_ok v (t + 14) 2 (by omega),
    fieldValue_div v (t + 8) 6 2, readTrailerFields_ok v t hin, crc_trailerAt v t,
    eventId_trailerAt v t⟩

end Sys2Proof

/-! PROOFS. The memory's statements: no read of a command goes to a byte at or beyond `L` (R51, R90). -/

namespace Sys2Proof.Machine

/-! ### Each read answers the same in two views that agree below `L` -/

section
variable {v w : EngineView} (h : agreeBelowLen v w)
include h

theorem markerIs_agree (a : Nat) (e : BitVec 16) : markerIs v a e = markerIs w a e := by
  rw [markerIs, markerIs, memRead_agree v w h]

theorem parseHeader_agree (a : Nat) : parseHeader v a = parseHeader w a := by
  have hfields : readHeaderFields v a = readHeaderFields w a := by
    simp only [readHeaderFields, memRead_agree v w h]
  rw [parseHeader, parseHeader, hfields, markerIs_agree h, h.1]

theorem readTrailer_agree (c : Nat) : readTrailer v c = readTrailer w c := by
  have hfields (t : Nat) : readTrailerFields v t = readTrailerFields w t := by
    simp only [readTrailerFields, trailerRead, memRead_agree v w h]
  rw [readTrailer, readTrailer, hfields, h.2.1]

/-- By induction on the fragments still to find: each iteration reads the same trailer and moves to
the same cursor. -/
theorem walkFrom_agree (orb : BitVec 8) (k cur : Nat) :
    walkFrom v orb k cur = walkFrom w orb k cur := by
  induction k generalizing cur with
  | zero => rfl
  | succ k ih => simp only [walkFrom, readTrailer_agree h, h.2.2.1, ih]

theorem walk_agree (orb : BitVec 8) (start pwc ec : Nat) :
    walk v orb start pwc ec = walk w orb start pwc ec := walkFrom_agree h orb ec _

/-- By induction on the orbits still to visit: each has the same header and the same walk. -/
theorem decodeOrbits_agree (n i : Nat) (r : Results) :
    decodeOrbits v n i r = decodeOrbits w n i r := by
  induction n generalizing i r with
  | zero => rfl
  | succ n ih =>
    simp only [decodeOrbits, walkOrbit, parseHeader_agree h, walk_agree h, h.1, ih]

end

/-! ### The commands -/

/-- The state with another buffer, and another draw number for its never-written bytes. -/
def State.withBuffer (s : State) (b : Memory) (n : Nat) : State :=
  { s with buf := b, eng := { s.eng with seed := n } }

@[simp] theorem withBuffer_operand0 (s : State) (b : Memory) (n : Nat) :
    operand0 (s.withBuffer b n).eng = operand0 s.eng := rfl
@[simp] theorem withBuffer_tmo (s : State) (b : Memory) (n : Nat) :
    (s.withBuffer b n).eng.tmo = s.eng.tmo := rfl

/-- From another buffer that agrees below `L`, a command answers the same next state but for that
buffer. -/
theorem exec_withBuffer (i : Instr) (s t : State) (b : Memory) (n : Nat)
    (hagree : agreeBelowLen s.view (s.withBuffer b n).view) (h : exec i s = .next t) :
    exec i (s.withBuffer b n) = .next (t.withBuffer b n) := by
  cases i with
  | leRead width =>
    simp only [exec, execLeRead, withBuffer_operand0, ← memRead_agree _ _ hagree] at h ⊢
    split at h <;> cases h <;> rfl
  | checkMarker which =>
    simp only [exec, execCheckMarker, withBuffer_operand0, withBuffer_tmo,
      ← markerIs_agree hagree] at h ⊢
    split at h <;> cases h <;> rfl
  | segment => cases h; rfl
  | parseHeader =>
    simp only [exec, execParseHeader, withBuffer_operand0, ← parseHeader_agree hagree] at h ⊢
    split at h <;> cases h <;> rfl
  | parseTrailer =>
    simp only [exec, execParseTrailer, withBuffer_operand0, ← readTrailer_agree hagree] at h ⊢
    split at h <;> cases h <;> rfl
  | walk =>
    cases h
    simp only [exec, execWalk, ← walk_agree hagree]
    rfl
  | decode =>
    cases h
    rw [exec_decode, ← decodeOrbits_agree hagree]
    rfl

end Sys2Proof.Machine

namespace Sys2Proof
open Machine

/-- Settles O53: a command reads the buffer through the reads that agree below `L` only. -/
theorem nothingBeyondLengthIsRead : Obligations.NothingBeyondLengthIsRead := by
  intro i s b n hagree
  obtain ⟨o, -, hexec⟩ := exec_outputs i s
  exact ⟨_, hexec, exec_withBuffer i s _ b n hagree hexec⟩

end Sys2Proof

/-! PROOFS. The encoding's statements: the fields of a command word (R70), and which values are commands (R71, R75, R79). -/

namespace Sys2Proof

/-! ### The fields as arithmetic on the value (R70) -/

theorem cmdOpc_toNat (v : Word) : (cmdOpc v).toNat = v.toNat % 256 := by
  simp [cmdOpc, BitVec.extractLsb'_toNat]

theorem cmdW_toNat (v : Word) : (cmdW v).toNat = v.toNat / 256 % 4 := by
  simp [cmdW, BitVec.extractLsb'_toNat, Nat.shiftRight_eq_div_pow]

theorem cmdM_toNat (v : Word) : (cmdM v).toNat = v.toNat / 1024 % 2 := by
  simp [cmdM, BitVec.extractLsb'_toNat, Nat.shiftRight_eq_div_pow]

theorem cmdRsv_toNat (v : Word) : (cmdRsv v).toNat = v.toNat / 2048 := by
  have := v.isLt
  simp only [cmdRsv, BitVec.extractLsb'_toNat, Nat.shiftRight_eq_div_pow]
  omega

/-! ### The opcode table (R71) -/

theorem codeOfWidth_widthOfCode (w : BitVec 2) : codeOfWidth (widthOfCode w) = w := by
  revert w; decide

theorem codeOfSelect_selectOfCode (m : BitVec 1) : codeOfSelect (selectOfCode m) = m := by
  revert m; decide

/-- A command has the opcode that names it, and the W and M fields where the opcode uses them. -/
theorem fields_of_commandOf {o : BitVec 8} {w : BitVec 2} {m : BitVec 1} {i : Instr}
    (h : commandOf o w m = some i) :
    opcOf i = o ∧ wOf i = (if o = opcLeRead then w else 0) ∧
      mOf i = if o = opcCheckMarker then m else 0 := by
  simp only [commandOf] at h
  split_ifs at h <;> cases h <;> subst o
  · exact ⟨rfl, codeOfWidth_widthOfCode w, rfl⟩
  · exact ⟨rfl, rfl, codeOfSelect_selectOfCode m⟩
  all_goals exact ⟨rfl, rfl, rfl⟩

/-- A reserved opcode (R75 check 1, R79), in arithmetic on the value. -/
def OpcodeReserved (v : Word) : Prop := v.toNat % 256 = 0 ∨ 8 ≤ v.toNat % 256

/-- A reserved bit set, or a field set that the opcode does not use (R75 check 2), in arithmetic on the value. -/
def FieldMisused (v : Word) : Prop :=
  v.toNat / 2048 ≠ 0 ∨ (v.toNat / 256 % 4 ≠ 0 ∧ v.toNat % 256 ≠ 1) ∨
    (v.toNat / 1024 % 2 ≠ 0 ∧ v.toNat % 256 ≠ 2)

theorem commandOf_eq_none_iff (v : Word) (w : BitVec 2) (m : BitVec 1) :
    commandOf (cmdOpc v) w m = none ↔ OpcodeReserved v := by
  rw [OpcodeReserved, ← cmdOpc_toNat]
  generalize cmdOpc v = o
  simp only [commandOf]
  split_ifs with h1 h2 h3 h4 h5 h6 h7
  case neg =>
    simp only [opcLeRead, opcCheckMarker, opcSegment, opcParseHeader, opcParseTrailer, opcWalk,
      opcDecode] at h1 h2 h3 h4 h5 h6 h7
    simp only [true_iff]
    bv_omega
  all_goals subst o; decide

theorem reservedFieldSet_iff (v : Word) : reservedFieldSet v = true ↔ FieldMisused v := by
  simp only [reservedFieldSet, Bool.or_eq_true, Bool.and_eq_true, bne_iff_ne, FieldMisused,
    ← cmdRsv_toNat, ← cmdW_toNat, ← cmdM_toNat, ← cmdOpc_toNat, or_assoc, ne_eq,
    ← BitVec.toNat_inj]
  rfl

/-! ### What decoding can answer (R75) -/

/-- A value fails check 1, passes it and fails check 2, or is a command. -/
theorem decode_cases (v : Word) :
    (OpcodeReserved v ∧ decode v = .error .reservedOpcode) ∨
    (¬ OpcodeReserved v ∧ FieldMisused v ∧ decode v = .error .reservedField) ∨
    (¬ OpcodeReserved v ∧ ¬ FieldMisused v ∧ ∃ i, decode v = .ok i) := by
  rw [← commandOf_eq_none_iff v (cmdW v) (cmdM v), ← reservedFieldSet_iff, decode]
  cases commandOf (cmdOpc v) (cmdW v) (cmdM v) with
  | none => exact .inl ⟨rfl, rfl⟩
  | some i =>
    cases reservedFieldSet v with
    | true => exact .inr (.inl ⟨nofun, rfl, rfl⟩)
    | false => exact .inr (.inr ⟨nofun, nofun, i, rfl⟩)

theorem decode_reservedOpcode_iff (v : Word) :
    decode v = .error .reservedOpcode ↔ OpcodeReserved v := by
  rcases decode_cases v with ⟨ho, hd⟩ | ⟨ho, -, hd⟩ | ⟨ho, -, i, hd⟩ <;> simp [ho, hd]

theorem decode_reservedField_iff (v : Word) :
    decode v = .error .reservedField ↔ ¬ OpcodeReserved v ∧ FieldMisused v := by
  rcases decode_cases v with ⟨ho, hd⟩ | ⟨ho, hf, hd⟩ | ⟨ho, hf, i, hd⟩ <;> simp [*]

theorem decode_ne_bufLen (v : Word) : decode v ≠ .error .bufLen := by
  rcases decode_cases v with ⟨-, hd⟩ | ⟨-, -, hd⟩ | ⟨-, -, i, hd⟩ <;> simp [hd]

theorem exists_decode_ok_iff (v : Word) :
    (∃ i, decode v = .ok i) ↔ ¬ OpcodeReserved v ∧ ¬ FieldMisused v := by
  rcases decode_cases v with ⟨ho, hd⟩ | ⟨ho, hf, hd⟩ | ⟨ho, hf, i, hd⟩ <;> simp [*]

/-! ### Decode and encode -/

/-- A legal value has the reserved bits 0, and W and M where its opcode does not use them (R75). -/
theorem reservedFieldSet_eq_false_iff (v : Word) :
    reservedFieldSet v = false ↔
      cmdRsv v = 0 ∧ (cmdW v = 0 ∨ cmdOpc v = opcLeRead) ∧
        (cmdM v = 0 ∨ cmdOpc v = opcCheckMarker) := by
  simp [reservedFieldSet, and_assoc, or_iff_not_imp_left]

theorem opcOf_of_decode {v : Word} {i : Instr} (h : decode v = .ok i) : opcOf i = cmdOpc v :=
  (fields_of_commandOf ((decode_ok_iff v i).1 h).1).1

/-- A legal value is the word of its command: the fields that the command does not use are 0. -/
theorem encode_of_decode {v : Word} {i : Instr} (h : decode v = .ok i) : encode i = v := by
  obtain ⟨hcommand, hfields⟩ := (decode_ok_iff v i).1 h
  obtain ⟨hrsv, hw, hm⟩ := (reservedFieldSet_eq_false_iff v).1 hfields
  obtain ⟨hopc, hwOf, hmOf⟩ := fields_of_commandOf hcommand
  have hw' : wOf i = cmdW v := by
    rw [hwOf, ite_eq_left_iff]
    exact fun hopc => (hw.resolve_right hopc).symm
  have hm' : mOf i = cmdM v := by
    rw [hmOf, ite_eq_left_iff]
    exact fun hopc => (hm.resolve_right hopc).symm
  rw [encode, hopc, hw', hm', cmdWord_fields v hrsv]

/-- The word of a well-formed command decodes to the command. -/
theorem decode_encode (i : Instr) (h : i.wellFormed = true) : decode (encode i) = .ok i :=
  match i with
  | .leRead n => Laws.RoundTrip.leRead n h
  | .checkMarker which => Laws.RoundTrip.checkMarker which h
  | .segment => Laws.RoundTrip.segment h
  | .parseHeader => Laws.RoundTrip.parseHeader h
  | .parseTrailer => Laws.RoundTrip.parseTrailer h
  | .walk => Laws.RoundTrip.walk h
  | .decode => Laws.RoundTrip.decode h

/-- Settles O2: a legal value is its command's word, and the word of a well-formed command is legal. -/
theorem decodeIffEncode : Obligations.DecodeIffEncode := fun v i =>
  ⟨fun h => ⟨wellFormed_of_decode v i h, encode_of_decode h⟩,
    fun ⟨hwf, hv⟩ => hv ▸ decode_encode i hwf⟩

/-- Settles O1: each word is the encoder's for its command. -/
theorem sampleWordsDecode : Obligations.SampleWordsDecode :=
  ⟨decode_encode (.leRead 1) rfl, decode_encode (.leRead 2) rfl, decode_encode (.leRead 4) rfl,
    decode_encode (.leRead 8) rfl, decode_encode (.checkMarker .header) rfl,
    decode_encode (.checkMarker .trailer) rfl, decode_encode .segment rfl,
    decode_encode .parseHeader rfl, decode_encode .parseTrailer rfl, decode_encode .walk rfl,
    decode_encode .decode rfl⟩

/-- Settles O3: the answers of the decoder, check by check. -/
theorem illegalEncodings : Obligations.IllegalEncodings := by
  intro v
  have hopc : 1 ≤ v.toNat % 256 ∧ v.toNat % 256 ≤ 7 ↔ ¬ OpcodeReserved v := by
    rw [OpcodeReserved]; omega
  rw [hopc]
  exact ⟨decode_reservedOpcode_iff v, decode_reservedField_iff v, decode_ne_bufLen v⟩

/-! ### The opcode table by match and mask (R80) -/

theorem append_eq_append_iff {a b : Nat} {x x' : BitVec a} {y y' : BitVec b} :
    x ++ y = x' ++ y' ↔ x = x' ∧ y = y' := by
  constructor
  · intro h
    have hx := congrArg (BitVec.extractLsb' b a) h
    have hy := congrArg (BitVec.extractLsb' 0 b) h
    simp only [BitVec.extractLsb'_append_eq_left] at hx
    simp only [BitVec.extractLsb'_append_eq_right] at hy
    exact ⟨hx, hy⟩
  · rintro ⟨rfl, rfl⟩; rfl

/-- A field under its part of a row's mask: it is compared with 0, unless the opcode uses it. -/
def unusedMask (n : Nat) (used : Bool) : BitVec n := if used then 0 else BitVec.allOnes n

theorem and_unusedMask_eq_zero_iff {n : Nat} (x : BitVec n) (used : Bool) :
    x &&& unusedMask n used = 0 ↔ x = 0 ∨ used = true := by
  cases used <;> simp [unusedMask]

/-- The mask of an opcode's row: all bits but those of the field that the opcode uses. -/
def rowMask (o : BitVec 8) : BitVec 32 :=
  BitVec.allOnes 21 ++ unusedMask 1 (o == opcCheckMarker) ++ unusedMask 2 (o == opcLeRead)
    ++ BitVec.allOnes 8

/-- The match of an opcode's row: the opcode, with every other field 0. -/
def rowMatch (o : BitVec 8) : BitVec 32 := (0 : BitVec 21) ++ (0 : BitVec 1) ++ (0 : BitVec 2) ++ o

/-- Bits 31:0 of a value, from its fields. -/
theorem setWidth_eq_fields (v : Word) :
    v.setWidth 32 = v.extractLsb' 11 21 ++ cmdM v ++ cmdW v ++ cmdOpc v := by
  rw [BitVec.setWidth_eq_extractLsb' (by decide), cmdM, cmdW, cmdOpc,
    BitVec.extractLsb'_append_extractLsb'_eq_extractLsb' (by rfl),
    BitVec.extractLsb'_append_extractLsb'_eq_extractLsb' (by rfl),
    BitVec.extractLsb'_append_extractLsb'_eq_extractLsb' (by rfl)]

theorem cmdRsv_eq_zero_iff (v : Word) :
    cmdRsv v = 0 ↔ v.extractLsb' 11 21 = 0 ∧ v.toNat / 2 ^ 32 = 0 := by
  have hlt := v.isLt
  rw [← BitVec.toNat_inj, ← BitVec.toNat_inj, cmdRsv_toNat, BitVec.extractLsb'_toNat,
    Nat.shiftRight_eq_div_pow]
  change v.toNat / 2048 = 0 ↔ v.toNat / 2 ^ 11 % 2 ^ 21 = 0 ∧ v.toNat / 2 ^ 32 = 0
  omega

/-- Match and mask on bits 31:0, with bits 63:32 zero, say that a value has the row's opcode and
passes the check of its fields. -/
theorem selectsRow_iff (v : Word) (o : BitVec 8) {mask mtch : BitVec 32} (hmask : rowMask o = mask)
    (hmatch : rowMatch o = mtch) :
    v.setWidth 32 &&& mask = mtch ∧ v.toNat / 2 ^ 32 = 0 ↔
      cmdOpc v = o ∧ reservedFieldSet v = false := by
  rw [← hmask, ← hmatch, setWidth_eq_fields, rowMask, rowMatch, BitVec.and_append,
    BitVec.and_append, BitVec.and_append, append_eq_append_iff, append_eq_append_iff,
    append_eq_append_iff, BitVec.and_allOnes, BitVec.and_allOnes, and_unusedMask_eq_zero_iff,
    and_unusedMask_eq_zero_iff, beq_iff_eq, beq_iff_eq, reservedFieldSet_eq_false_iff,
    cmdRsv_eq_zero_iff]
  constructor
  · rintro ⟨⟨⟨⟨hrsv, hm⟩, hw⟩, rfl⟩, hhigh⟩
    exact ⟨rfl, ⟨hrsv, hhigh⟩, hw, hm⟩
  · rintro ⟨rfl, ⟨hrsv, hhigh⟩, hw, hm⟩
    exact ⟨⟨⟨⟨hrsv, hm⟩, hw⟩, rfl⟩, hhigh⟩

theorem legal_of_decode {v : Word} {i : Instr} (h : decode v = .ok i) :
    cmdOpc v = opcOf i ∧ reservedFieldSet v = false :=
  ⟨(opcOf_of_decode h).symm, ((decode_ok_iff v i).1 h).2⟩

/-- The command that the opcode, W and M name is decoded when the other fields are 0. -/
theorem decode_iff_legal {v : Word} {i : Instr}
    (hcommand : commandOf (opcOf i) (cmdW v) (cmdM v) = some i) :
    decode v = .ok i ↔ cmdOpc v = opcOf i ∧ reservedFieldSet v = false :=
  ⟨legal_of_decode, fun ⟨hopc, hfields⟩ => (decode_ok_iff v i).2 ⟨hopc ▸ hcommand, hfields⟩⟩

theorem decode_leRead_iff (v : Word) :
    (∃ n, decode v = .ok (.leRead n)) ↔ cmdOpc v = opcLeRead ∧ reservedFieldSet v = false :=
  ⟨fun ⟨_, h⟩ => legal_of_decode h,
    fun h => ⟨widthOfCode (cmdW v), (decode_iff_legal rfl).2 h⟩⟩

theorem decode_checkMarker_iff (v : Word) :
    (∃ m, decode v = .ok (.checkMarker m)) ↔
      cmdOpc v = opcCheckMarker ∧ reservedFieldSet v = false :=
  ⟨fun ⟨_, h⟩ => legal_of_decode h,
    fun h => ⟨selectOfCode (cmdM v), (decode_iff_legal rfl).2 h⟩⟩

/-- Settles O4: a row's match and mask are those of its opcode. -/
theorem opcodeTableSelects : Obligations.OpcodeTableSelects := by
  intro v
  rw [selectsRow_iff v opcLeRead (by decide) (by decide),
    selectsRow_iff v opcCheckMarker (by decide) (by decide),
    selectsRow_iff v opcSegment (by decide) (by decide),
    selectsRow_iff v opcParseHeader (by decide) (by decide),
    selectsRow_iff v opcParseTrailer (by decide) (by decide),
    selectsRow_iff v opcWalk (by decide) (by decide),
    selectsRow_iff v opcDecode (by decide) (by decide)]
  exact ⟨decode_leRead_iff v, decode_checkMarker_iff v, decode_iff_legal rfl, decode_iff_legal rfl,
    decode_iff_legal rfl, decode_iff_legal rfl, decode_iff_legal rfl⟩

end Sys2Proof

/-! PROOFS. The encoding's statements: the write of a value to CMD (R74 to R77), and the command that compares a marker (R96). -/

namespace Sys2Proof.Machine

/-! ### The write to CMD (R155) -/

section
variable {s : State} {v : Word} {ms : List Move}

/-- Index 0 is CMD (R22). -/
theorem step_wr_cmd (hmoves : s.moves = .wr 0 v :: ms) :
    step s = .next (cmdWrite v { s with moves := ms }) := step_wr hmoves

theorem step_cmd_busy (hmoves : s.moves = .wr 0 v :: ms) (hbusy : s.status.busy = true) :
    step s = .next (overrun { s with moves := ms }) := by
  simp [step_wr_cmd hmoves, cmdWrite, hbusy]

section
variable (hmoves : s.moves = .wr 0 v :: ms) (hbusy : s.status.busy = false)
include hmoves hbusy

theorem step_cmd_error {c : IllCause} (hdecode : decode v = .error c) :
    step s = .next (illegal c { s with moves := ms }) := by
  simp [step_wr_cmd hmoves, cmdWrite, hbusy, hdecode]

theorem step_cmd_tooLong {i : Instr} (hdecode : decode v = .ok i) (hlen : s.bufCap < s.bufLen) :
    step s = .next (illegal .bufLen { s with moves := ms }) := by
  simp [step_wr_cmd hmoves, cmdWrite, hbusy, hdecode, hlen]

theorem step_cmd_legal {i : Instr} (hdecode : decode v = .ok i) (hlen : s.bufLen ≤ s.bufCap) :
    step s = .next (issue v { s with moves := ms }) := by
  simp [step_wr_cmd hmoves, cmdWrite, hbusy, hdecode, BitVec.not_lt.2 hlen]

end

end

/-! ### The issue (R74) -/

theorem cmdOpc_eq_setWidth (v : Word) : cmdOpc v = v.setWidth 8 :=
  (BitVec.setWidth_eq_extractLsb' (by decide)).symm

theorem cmdW_eq_shift (v : Word) : cmdW v = (v >>> 8).setWidth 2 := by
  simp [cmdW, ← BitVec.toNat_inj]

theorem cmdM_eq_shift (v : Word) : cmdM v = (v >>> 10).setWidth 1 := by
  simp [cmdM, ← BitVec.toNat_inj]

theorem opcOf_eq_parseHeader_iff (i : Instr) : opcOf i = opcParseHeader ↔ i = .parseHeader := by
  cases i <;> simp [opcOf] <;> decide

theorem opcOf_eq_parseTrailer_iff (i : Instr) : opcOf i = opcParseTrailer ↔ i = .parseTrailer := by
  cases i <;> simp [opcOf] <;> decide

/-- STATUS at the issue of a decoded value, told by its command. -/
theorem statusAtIssue_of_decode {v : Word} {i : Instr} (h : decode v = .ok i) (st : Status) :
    statusAtIssue (cmdOpc v) st = { st with
      busy := true, done := false, err := false, ill := false, illCause := 0,
      hdrValid := st.hdrValid && decide (i ≠ .parseHeader),
      trlValid := st.trlValid && decide (i ≠ .parseTrailer) } := by
  simp only [statusAtIssue, ← opcOf_of_decode h, opcOf_eq_parseHeader_iff, opcOf_eq_parseTrailer_iff]
  simp [Bool.and_comm]

end Sys2Proof.Machine

namespace Sys2Proof
open Machine

/-- Settles O6: the issue latches the fields of the value, and the engine fetches its command from them. -/
theorem cmdWriteIssues : Obligations.CmdWriteIssues := by
  intro s v i ms hbusy hdecode hlen hmoves
  refine ⟨issue v { s with moves := ms }, step_cmd_legal hmoves hbusy hdecode hlen, ?_, ?_⟩
  · rw [issue, statusAtIssue_of_decode hdecode, cmdOpc_eq_setWidth, cmdW_eq_shift, cmdM_eq_shift]
    rfl
  · exact engineStep_run _ i rfl (fetch_issue v _ i hdecode)

/-- Settles O7: the checks before BUF_LEN's are the decoder's. -/
theorem illegalCmdWrite : Obligations.IllegalCmdWrite := by
  intro s v ms hbusy hmoves
  refine ⟨fun hopc => ?_, fun hopc hfield => ?_, fun hopc hfield hlen => ?_⟩
  · exact step_cmd_error hmoves hbusy ((decode_reservedOpcode_iff v).2 hopc)
  · exact step_cmd_error hmoves hbusy ((decode_reservedField_iff v).2 ⟨hopc, hfield⟩)
  · obtain ⟨i, hdecode⟩ := (exists_decode_ok_iff v).2 ⟨hopc, hfield⟩
    exact step_cmd_tooLong hmoves hbusy hdecode hlen

/-- Settles O8: the write is ignored but for OVR. -/
theorem cmdWriteWhileBusy : Obligations.CmdWriteWhileBusy := fun _ _ _ hbusy hmoves =>
  step_cmd_busy hmoves hbusy

/-- Settles O32: in bounds the command completes with the comparison, out of bounds with the read's error. -/
theorem checkMarkerResult : Obligations.CheckMarkerResult := by
  intro s which expected
  have hexpected : (expectedMarker which s.eng.tmo).toNat = expected := by
    cases which with
    | header => rfl
    | trailer => exact trlMarker_toNat s.eng.tmo
  refine ⟨fun hin => ?_, fun hout => ?_⟩
  · rw [exec, execCheckMarker, markerIs_ok _ _ _ hin, hexpected]
    simp only [decide_eq_true_eq]
    rfl
  · rw [exec, execCheckMarker, markerIs_error _ _ _ hout]
    simp only [stopWith_eq]
    rfl

end Sys2Proof

/-! PROOFS. The field extractor's statements: a field read of little-endian bytes, and LE_READ (R91, R92). -/

namespace Sys2Proof.Machine

/-- Little-endian digits of `V` form its low bytes, by induction on the width: the byte that a wider
field adds is the next digit. -/
theorem fieldValue_of_digits {v : EngineView} {a n V : Nat}
    (h : ∀ i, i < n → (byteAt v (a + i)).toNat = V / 2 ^ (8 * i) % 2 ^ 8) :
    fieldValue v a n = V % 2 ^ (8 * n) := by
  induction n with
  | zero => simp [fieldValue, Nat.mod_one]
  | succ n ih =>
    have hlow : fieldValue v a n = V % 2 ^ (8 * n) := ih fun i hi => h i (by omega)
    have hdigit : (byteAt v (a + n)).toNat = V / 2 ^ (8 * n) % 2 ^ 8 := h n (by omega)
    rw [fieldValue_succ, hlow, hdigit, Nat.mul_succ, pow_add, Nat.mod_mul,
      Nat.mul_comm (V / 2 ^ (8 * n) % 2 ^ 8)]

end Sys2Proof.Machine

namespace Sys2Proof
open Machine

/-- Settles O27: the bytes form the value's low `n` bytes, which are the whole of a value that fits. -/
theorem fieldRoundTrip : Obligations.FieldRoundTrip := by
  intro v n V a _ hfits hin hdigits
  rw [memRead_ok v a n hin, fieldValue_of_digits hdigits, Nat.mod_eq_of_lt hfits]

/-- Settles O31: in bounds the command completes with the field's value, out of bounds with the read's error. -/
theorem leReadResult : Obligations.LeReadResult := by
  intro s n _
  refine ⟨fun hin => ?_, fun hout => ?_⟩
  · rw [exec, execLeRead, operand0, memRead_ok _ _ _ hin]
    rfl
  · rw [exec, execLeRead, operand0, memRead_error _ _ _ hout]
    simp only [stopWith_eq]
    rfl

end Sys2Proof

/-! PROOFS. The segmenter's statements: the slices of a buffer (R100 to R102), and the decode of one that holds no header (R104). -/

namespace Sys2Proof.Machine

/-! ### The slices -/

theorem sliceSize_of_lt {len : Nat} (h : len < 4) : sliceSize len = 0 := Nat.div_eq_of_lt h

theorem sliceStart_of_lt {len : Nat} (i : Nat) (h : len < 4) : sliceStart len i = 0 := by
  rw [sliceStart, sliceSize_of_lt h, Nat.mul_zero]

theorem sliceStart_zero (len : Nat) : sliceStart len 0 = 0 := Nat.zero_mul _

/-! ### The buffer's end before the header's -/

/-- A header that does not fit before the buffer's end is truncated, whatever the slice it is in (R105, R111). -/
theorem parseHeader_truncated {v : EngineView} {a : Nat} (h : v.len < a + 32) :
    parseHeader v a = .error { kind := .truncatedHeader, offset := a, expected := 32,
                               actual := if a ≤ v.len then v.len - a else 0 } := if_pos h

/-- A decode that comes to an orbit with a truncated header adds its error record and ends (R142). -/
theorem decodeOrbits_truncated {v : EngineView} {i : Nat} (n : Nat) (r : Results)
    (h : v.len < sliceStart v.len i + 32) :
    decodeOrbits v (n + 1) i r =
      { r with errs := r.errs ++
          [truncatedHeaderRec (BitVec.ofNat 8 i) v.len (sliceStart v.len i)] } := by
  rw [decodeOrbits, parseHeader_truncated h]
  rfl

/-- A command whose last record is an error completes with ERR set (R76). -/
theorem complete_append_err (s : State) (r : Results) (e : ErrRec) :
    complete { s with results := { r with errs := r.errs ++ [e] } } = { s with
      results := { r with errs := r.errs ++ [e] }
      status := { s.status with err := true, busy := false, done := true }
      eng := { s.eng with phase := .idle } } := by
  simp [complete, statusAtCompletion]

end Sys2Proof.Machine

namespace Sys2Proof
open Machine

/-- Settles O33: SEGMENT is the completion of the state with the slice size in RESULT. -/
theorem segmentResult : Obligations.SegmentResult := fun _ => rfl

/-- Settles O46: orbit 0 starts at 0, so a buffer shorter than a header truncates its header. -/
theorem decodeShortBuffer : Obligations.DecodeShortBuffer := by
  intro s
  refine ⟨fun hlen => ⟨sliceSize_of_lt hlen, fun i _ => sliceStart_of_lt i hlen⟩, fun hlen => ?_⟩
  have hshort : s.view.len < sliceStart s.view.len 0 + 32 := by
    rwa [sliceStart_zero, Nat.zero_add]
  rw [exec_decode, Config.nOrbits, decodeOrbits_truncated 3 s.results hshort, sliceStart_zero,
    complete_append_err]
  rfl

end Sys2Proof

/-! PROOFS. The header parser's statements: PARSE_HEADER's outcomes (R111, R112), and the reserved bits of the eventCount field (R113). -/

namespace Sys2Proof.Machine

/-! ### The outcomes of a header parse -/

theorem parseHeader_badMarker {v : EngineView} {a : Nat} (hroom : a + 32 ≤ v.len)
    (hmarker : fieldValue v a 2 ≠ 0x4F48) :
    parseHeader v a = .error { kind := .badHeaderMarker, offset := a, expected := 0x4F48,
                               actual := fieldValue v a 2 } := by
  rcases parseHeader_cases v a with ⟨hshort, _⟩ | ⟨_, _, hbad⟩ | ⟨⟨_, hho⟩, _⟩
  · omega
  · exact hbad
  · exact absurd hho hmarker

theorem parseHeader_of_headerOk {v : EngineView} {a : Nat} (h : headerOk v a) :
    parseHeader v a = .ok (headerAt v a) := (parseHeader_ok_iff v a _).2 ⟨h, rfl⟩

/-! ### PARSE_HEADER -/

theorem exec_parseHeader_error {s : State} {f : Failure}
    (h : parseHeader s.view s.eng.a0.toNat = .error f) :
    exec .parseHeader s = .next (stopWith f s) := by
  rw [exec, execParseHeader, operand0, h]

theorem exec_parseHeader_of_headerOk {s : State} (h : headerOk s.view s.eng.a0.toNat) :
    exec .parseHeader s = .next (complete { s with
      hdr := headerAt s.view s.eng.a0.toNat, status := { s.status with hdrValid := true } }) := by
  rw [exec, execParseHeader, operand0, parseHeader_of_headerOk h]

/-! ### The eventCount field -/

/-- The reserved bits stand above the 12 bits of the eventCount, so they are multiples of 4096. -/
theorem or_shiftLeft_mod_4096 {X : Nat} (R : Nat) (hX : X < 4096) :
    (X ||| R <<< 12) % 4096 = X := by
  rw [Nat.or_comm, ← Nat.shiftLeft_add_eq_or_of_lt hX, Nat.shiftLeft_eq, Nat.mul_add_mod',
    Nat.mod_eq_of_lt hX]

theorem headerAt_eventCount_toNat (v : EngineView) (a : Nat) :
    (headerAt v a).eventCount.toNat = fieldValue v (a + 16) 4 % 4096 := by
  simp [headerAt]

end Sys2Proof.Machine

namespace Sys2Proof
open Machine

/-- Settles O34: a parse that fails leaves its error's record, and one that succeeds its header. -/
theorem parseHeaderResult : Obligations.ParseHeaderResult := by
  intro s a L
  refine ⟨fun hshort => ?_, fun hroom hmarker => ?_, fun hroom hmarker => ?_⟩
  · rw [exec_parseHeader_error (parseHeader_truncated hshort), stopWith_eq]
    rfl
  · rw [exec_parseHeader_error (parseHeader_badMarker hroom hmarker), stopWith_eq]
    rfl
  · rw [exec_parseHeader_of_headerOk ⟨hroom, hmarker⟩]
    rfl

/-- Settles O35: the header keeps the field's value modulo 4096, of which the reserved bits are no part. -/
theorem eventCountIgnoresReservedBits : Obligations.EventCountIgnoresReservedBits := by
  intro s X R hX _ hheader hfield
  refine ⟨_, exec_parseHeader_of_headerOk hheader, ?_, rfl⟩
  rw [complete_hdr, headerAt_eventCount_toNat, hfield, or_shiftLeft_mod_4096 R hX]

end Sys2Proof

/-! PROOFS. The fragment walker's statements: the trailer read (R123, R125), PARSE_TRAILER (R131), and WALK on its operands (R132, R134, R136). -/

namespace Sys2Proof.Machine

/-! ### The outcomes of a trailer read (R125) -/

section
variable {v : EngineView} {c : Nat}

theorem readTrailer_truncated (hshort : c < 16) :
    readTrailer v c = .error
      { failure := { kind := .truncatedTrailer, offset := c, expected := 16, actual := c },
        cursor := c } := if_pos hshort

theorem readTrailer_outOfBounds (hroom : 16 ≤ c) (hout : v.len < c) :
    ∃ off n, firstFailingRead v.len (c - 16) = some (off, n) ∧
      readTrailer v c = .error
        { failure := { kind := .outOfBounds, offset := c - 16 + off, expected := n,
                       actual := if c - 16 + off ≤ v.len then v.len - (c - 16 + off) else 0 },
          cursor := c - 16 } := by
  rcases readTrailer_cases v c with ⟨hshort, _⟩ | ⟨_, _, hread⟩ | ⟨_, hin, _⟩ | ⟨_, hin, _⟩
  · omega
  · exact hread
  · omega
  · omega

theorem readTrailer_badMarker (hroom : 16 ≤ c) (hin : c ≤ v.len)
    (hmarker : fieldValue v (c - 16) 2 ≠ trailerMarkerValue v.tmo) :
    readTrailer v c = .error
      { failure := { kind := .badTrailerMarker, offset := c - 16,
                     expected := trailerMarkerValue v.tmo, actual := fieldValue v (c - 16) 2 },
        cursor := c - 16 } := by
  rcases readTrailer_cases v c with ⟨hshort, _⟩ | ⟨_, hout, _⟩ | ⟨_, _, _, hbad⟩ | ⟨_, _, hgood, _⟩
  · omega
  · omega
  · exact hbad
  · exact absurd hgood hmarker

theorem readTrailer_ok (hroom : 16 ≤ c) (hin : c ≤ v.len)
    (hmarker : fieldValue v (c - 16) 2 = trailerMarkerValue v.tmo) :
    readTrailer v c = .ok (trailerAt v (c - 16)) := by
  rcases readTrailer_cases v c with ⟨hshort, _⟩ | ⟨_, hout, _⟩ | ⟨_, _, hbad, _⟩ | ⟨_, _, _, hok⟩
  · omega
  · omega
  · exact absurd hmarker hbad
  · exact hok

end

/-- The payload a trailer declares, from its fragSize field (R123). -/
theorem payloadBytes_trailerAt (v : EngineView) (t : Nat) (psm : Bool) :
    payloadBytes (trailerAt v t).fragSize psm = payloadSizeOf psm (fieldValue v (t + 4) 4) := by
  rw [payloadBytes_eq, fragSize_trailerAt]

/-- The record that a BadTrailerMarker failure leaves (R151). -/
theorem badTrailerMarkerRec_eq (orb : BitVec 8) (ord : BitVec 16) (tmo : Bool) (t m : Nat) :
    badTrailerMarkerRec orb ord tmo t m =
      { kind := .badTrailerMarker, orbit := orb, ordinal := ord, offset := BitVec.ofNat 64 t,
        expected := BitVec.ofNat 64 (trailerMarkerValue tmo), actual := BitVec.ofNat 64 m } := by
  cases tmo <;> rfl

/-! ### PARSE_TRAILER (R131) -/

theorem exec_parseTrailer_error {s : State} {e : WalkStop}
    (h : readTrailer s.view s.eng.a0.toNat = .error e) :
    exec .parseTrailer s = .next (stopWith e.failure { s with result := 0 }) := by
  rw [exec, execParseTrailer, operand0, h]

theorem exec_parseTrailer_ok {s : State} {r : FragmentTrailer}
    (h : readTrailer s.view s.eng.a0.toNat = .ok r) :
    exec .parseTrailer s = .next (complete { s with
      trl := r
      result := BitVec.ofNat 64 (payloadBytes r.fragSize s.eng.psm)
      status := { s.status with trlValid := true } }) := by
  rw [exec, execParseTrailer, operand0, h]

/-! ### WALK (R136) -/

/-- The walk that WALK runs on its latched operands (R83, R124, R136). -/
def State.walked (s : State) : WalkResult :=
  walkFrom s.view 0xFF (s.eng.a2.toNat % 4096) (s.eng.a0.toNat + s.eng.a1.toNat * 16)

theorem exec_walk (s : State) :
    exec .walk s = .next (complete { s with
      results := commitWalk 0xFF s.walked s.results
      result := BitVec.ofNat 64 s.walked.cursor }) := by
  rw [exec, execWalk, eventCountOperand, and_evcMask]
  rfl

section
variable {s : State} {recs : List FragRec} {cur : Nat}

/-- A walk that no error stops adds its descriptors (R129). -/
theorem exec_walk_completed (h : s.walked = { frags := recs, stop := none, cursor := cur }) :
    exec .walk s = .next { s with
      result := BitVec.ofNat 64 cur
      results := { s.results with frags := s.results.frags ++ recs }
      status := { s.status with err := !s.results.errs.isEmpty, busy := false, done := true }
      eng := { s.eng with phase := .idle } } := by
  rw [exec_walk, h]
  rfl

/-- A walk that an error stops adds the descriptors before it and the error's record (R129). -/
theorem exec_walk_stopped {ord : BitVec 16} {f : Failure}
    (h : s.walked = { frags := recs, stop := some (ord, f), cursor := cur }) :
    exec .walk s = .next { s with
      result := BitVec.ofNat 64 cur
      results := { s.results with
        frags := s.results.frags ++ recs
        errs := s.results.errs ++
          [{ kind := f.kind, orbit := 0xFF, ordinal := ord, offset := BitVec.ofNat 64 f.offset,
             expected := BitVec.ofNat 64 f.expected, actual := BitVec.ofNat 64 f.actual }] }
      status := { s.status with err := true, busy := false, done := true }
      eng := { s.eng with phase := .idle } } := by
  rw [exec_walk, h]
  exact congrArg Host.Outcome.next
    (complete_append_err { s with result := BitVec.ofNat 64 cur } (emitFrags recs s.results) _)

end

end Sys2Proof.Machine

namespace Sys2Proof
open Machine

/-- Settles O30: 128 is 8 words of 16 bytes. -/
theorem payloadFormulas : Obligations.PayloadFormulas := fun f =>
  ⟨rfl, rfl, Nat.mul_div_mul_right f.toNat 8 (by decide)⟩

/-- Settles O36: a trailer read that fails leaves its error's record, and one that succeeds its trailer. -/
theorem parseTrailerResult : Obligations.ParseTrailerResult := by
  intro s c L failed
  refine ⟨fun hshort => ?_, fun hroom hout => ?_, fun hroom hin hmarker => ?_,
    fun hroom hin hmarker => ?_⟩
  · rw [exec_parseTrailer_error (readTrailer_truncated hshort), stopWith_eq]
    rfl
  · obtain ⟨off, n, hfirst, hread⟩ := readTrailer_outOfBounds (v := s.view) hroom hout
    refine ⟨off, n, hfirst, ?_⟩
    rw [exec_parseTrailer_error hread, stopWith_eq]
    rfl
  · rw [exec_parseTrailer_error (readTrailer_badMarker hroom hin hmarker), stopWith_eq,
      badTrailerMarkerRec_eq]
    rfl
  · rw [exec_parseTrailer_ok (readTrailer_ok hroom hin hmarker), payloadBytes_trailerAt]
    rfl

/-- Settles O38: by cases on how the walk on the latched operands ends. -/
theorem walkResult : Obligations.WalkResult := by
  intro s
  rw [← State.walked]
  rcases h : s.walked with ⟨recs, _ | stop, cur⟩
  · simpa using exec_walk_completed h
  · rw [exec_walk, h]
    rfl

/-- Settles O39: a walk for no fragment ends where it starts. -/
theorem walkEventCountZero : Obligations.WalkEventCountZero := by
  intro s hzero
  have hwalk : s.walked =
      { frags := [], stop := none, cursor := s.eng.a0.toNat + s.eng.a1.toNat * 16 } := by
    rw [State.walked, hzero, walkFrom_zero]
  rw [exec_walk_completed hwalk, List.append_nil]

/-- Settles O40: the first iteration's trailer ends at the region end, so its read fails. -/
theorem walkRegionBeyondBuffer : Obligations.WalkRegionBeyondBuffer := by
  intro s e ec hpos hroom hout
  obtain ⟨off, n, hfirst, hread⟩ := readTrailer_outOfBounds (v := s.view) hroom hout
  have hwalk := walkFrom_stop s.view 0xFF (ec - 1) e _ hread
  rw [Nat.sub_add_cancel hpos] at hwalk
  refine ⟨off, n, hfirst, ?_⟩
  rw [exec_walk_stopped hwalk, List.append_nil]
  rfl

end Sys2Proof

/-! PROOFS. The fragment walker's statements: the walk's loop (R126) on regions of back-to-back fragments (R135, R137), its order (R128) and its end (R129). -/

namespace Sys2Proof.Machine

/-! ### Regions of fragments -/

/-- Where the fragment of ordinal `k` begins, for fragments of `q` words from `start` on (R135);
with `k` the number of fragments, the region's end. -/
def fragStart (start q k : Nat) : Nat := start + k * (16 * q + 16)

theorem fragStart_zero (start q : Nat) : fragStart start q 0 = start := by simp [fragStart]

/-- A fragment ends where the one with the next ordinal begins, with its trailer last. -/
theorem fragStart_succ (start q k : Nat) :
    fragStart start q (k + 1) = trailerStart start q k + 16 := by
  rw [fragStart, trailerStart]; ring

theorem trailerStart_eq (start q k : Nat) :
    trailerStart start q k = fragStart start q k + 16 * q := rfl

theorem fragStart_mono (start q : Nat) {k n : Nat} (h : k ≤ n) :
    fragStart start q k ≤ fragStart start q n :=
  Nat.add_le_add_left (Nat.mul_le_mul_right _ h) _

section
variable {v : EngineView} {start q : Nat} (orb : BitVec 8)

/-- The trailer read at the end of a fragment inside the buffer, under a good marker. -/
theorem readTrailer_fragment {k : Nat} (hin : fragStart start q (k + 1) ≤ v.len)
    (hok : trailerOk v (trailerStart start q k) q) :
    readTrailer v (fragStart start q (k + 1)) = .ok (trailerAt v (trailerStart start q k)) := by
  rw [fragStart_succ] at hin ⊢
  exact readTrailer_ok (Nat.le_add_left _ _) hin hok.1

/-- One iteration at the end of a good fragment emits it and goes on at its start (R126, R135). -/
theorem walkFrom_fragment {k : Nat} (hpsm : v.psm = false)
    (hin : fragStart start q (k + 1) ≤ v.len) (hok : trailerOk v (trailerStart start q k) q) :
    walkFrom v orb (k + 1) (fragStart start q (k + 1)) =
      { walkFrom v orb k (fragStart start q k) with
        frags := regionFrag v orb start q k :: (walkFrom v orb k (fragStart start q k)).frags } := by
  have hp : payloadBytes (trailerAt v (trailerStart start q k)).fragSize v.psm = 16 * q := by
    rw [payloadBytes_trailerAt, hok.2, hpsm]
    exact Nat.mul_comm q 16
  have ht : fragStart start q (k + 1) - 16 = fragStart start q k + 16 * q := by
    rw [fragStart_succ, Nat.add_sub_cancel, trailerStart_eq]
  have hsize : (trailerAt v (trailerStart start q k)).fragSize = BitVec.ofNat 32 q := by
    rw [trailerAt, hok.2]
  rw [walkFrom_emit v orb k _ _ (readTrailer_fragment hin hok) (by omega), hp, ht,
    Nat.add_sub_cancel, fragRecOf, hsize]
  rfl

/-- The walk over the `n` good fragments from ordinal `j` up emits them from the highest down, and
goes on with the fragments below `j`: by induction on `n`, the highest fragment first. -/
theorem walkFrom_fragments {j n : Nat} (hpsm : v.psm = false)
    (hin : fragStart start q (j + n) ≤ v.len)
    (hok : ∀ k, j ≤ k → k < j + n → trailerOk v (trailerStart start q k) q) :
    walkFrom v orb (j + n) (fragStart start q (j + n)) =
      { walkFrom v orb j (fragStart start q j) with
        frags := (List.range' j n).reverse.map (regionFrag v orb start q) ++
          (walkFrom v orb j (fragStart start q j)).frags } := by
  induction n with
  | zero => rfl
  | succ n ih =>
    have hrest := ih ((fragStart_mono start q (Nat.le_succ _)).trans hin)
      fun k hjk hk => hok k hjk (by omega)
    rw [← Nat.add_assoc] at hin ⊢
    rw [walkFrom_fragment orb hpsm hin (hok _ (by omega) (by omega)), hrest]
    simp [List.range'_concat]

/-- A damaged marker at the end of a fragment stops the walk at its trailer (R125, R137). -/
theorem walkFrom_damaged {j : Nat} (hin : fragStart start q (j + 1) ≤ v.len)
    (hbad : fieldValue v (trailerStart start q j) 2 ≠ trailerMarkerValue v.tmo) :
    walkFrom v orb (j + 1) (fragStart start q (j + 1)) =
      { frags := [],
        stop := some (BitVec.ofNat 16 j,
          { kind := .badTrailerMarker, offset := trailerStart start q j,
            expected := trailerMarkerValue v.tmo,
            actual := fieldValue v (trailerStart start q j) 2 }),
        cursor := trailerStart start q j } := by
  rw [fragStart_succ] at hin ⊢
  exact walkFrom_stop v orb j _ _ (readTrailer_badMarker (Nat.le_add_left _ _) hin hbad)

end

/-! ### The order of the descriptors (R128) -/

section
variable {v : EngineView} {orb : BitVec 8} {k cur j : Nat} {r : FragRec}

theorem le_cursor_of_readTrailer_ok {t : FragmentTrailer} (h : readTrailer v cur = .ok t) :
    16 ≤ cur := by
  by_contra hshort
  rw [readTrailer_truncated (by omega)] at h
  cases h

/-- A walk's first descriptor has the highest ordinal, its payload and trailer end at the cursor,
and the other descriptors are those of the walk that goes on from its start. -/
theorem walkFrom_first (h : (walkFrom v orb k cur).frags[0]? = some r) :
    0 < k ∧ ∃ start p t, start + p + 16 = cur ∧ r = fragRecOf orb (k - 1) start p t ∧
      (walkFrom v orb k cur).frags.tail = (walkFrom v orb (k - 1) start).frags := by
  cases k with
  | zero => simp at h
  | succ k =>
    rcases walkFrom_succ_cases v orb k cur with ⟨f, c, hstop⟩ | ⟨t, hread, hfits, hemit⟩
    · simp [hstop] at h
    · have hroom := le_cursor_of_readTrailer_ok hread
      rw [hemit] at h ⊢
      exact ⟨k.succ_pos, _, _, t, by omega, (Option.some.inj h).symm, rfl⟩

/-- From any of its descriptors on, a walk is a walk for the fragments that are left: by induction
on the descriptors passed over. -/
theorem walkFrom_drop (hj : j ≤ (walkFrom v orb k cur).frags.length) :
    ∃ c, c ≤ cur ∧
      (walkFrom v orb k cur).frags.drop j = (walkFrom v orb (k - j) c).frags := by
  induction j with
  | zero => exact ⟨cur, le_rfl, rfl⟩
  | succ j ih =>
    obtain ⟨c, hc, hdrop⟩ := ih (by omega)
    have hfirst : (walkFrom v orb (k - j) c).frags[0]? =
        some ((walkFrom v orb k cur).frags[j]) := by
      rw [← hdrop, List.getElem?_drop, Nat.add_zero, List.getElem?_eq_getElem]
    obtain ⟨_, start, p, _, hcur, _, htail⟩ := walkFrom_first hfirst
    exact ⟨start, by omega, by rw [← List.tail_drop, hdrop, htail, Nat.sub_sub]⟩

end

/-! ### The end of a walk (R129) -/

/-- The failure `f` of a walk that stops at cursor `c`: the error kinds of a fragment, each with the
offset it records (R125, R129). -/
def FailsAt (len c : Nat) (f : Failure) : Prop :=
  (f.kind = .truncatedTrailer ∧ c = f.offset) ∨
  (f.kind = .badTrailerMarker ∧ c = f.offset) ∨
  (f.kind = .truncatedPayload ∧ c = f.offset) ∨
  (f.kind = .outOfBounds ∧ ∃ d n, firstFailingRead len c = some (d, n) ∧
    f.offset = c + d ∧ f.expected = n)

theorem failsAt_of_readTrailer {v : EngineView} {c : Nat} {e : WalkStop}
    (h : readTrailer v c = .error e) : FailsAt v.len e.cursor e.failure := by
  rcases readTrailer_cases v c with ⟨_, hread⟩ | ⟨_, _, off, n, hfirst, hread⟩ | ⟨_, _, _, hread⟩ |
    ⟨_, _, _, hread⟩ <;> rw [hread] at h <;> cases h
  · exact .inl ⟨rfl, rfl⟩
  · exact .inr (.inr (.inr ⟨rfl, off, n, hfirst, rfl, rfl⟩))
  · exact .inr (.inl ⟨rfl, rfl⟩)

/-- How a walk `w` for `k` fragments ends (R126, R129): after all of them, or at the ordinal that
comes next, with its failure. -/
inductive WalkEnd (len k : Nat) (w : WalkResult) : Prop
  | completed (hstop : w.stop = none) (hlen : w.frags.length = k)
  | failed (f : Failure) (hlen : w.frags.length < k)
      (hstop : w.stop = some (BitVec.ofNat 16 (k - 1 - w.frags.length), f))
      (hfails : FailsAt len w.cursor f)

/-- By induction on the fragments still to find: an iteration ends the walk with its failure, or
emits one descriptor and leaves the end to the rest. -/
theorem walkFrom_end (v : EngineView) (orb : BitVec 8) (k cur : Nat) :
    WalkEnd v.len k (walkFrom v orb k cur) := by
  induction k generalizing cur with
  | zero => exact .completed rfl rfl
  | succ k ih =>
    cases hread : readTrailer v cur with
    | error e =>
      rw [walkFrom_stop v orb k cur e hread]
      exact .failed e.failure k.succ_pos rfl (failsAt_of_readTrailer hread)
    | ok r =>
      by_cases hp : cur - 16 < payloadBytes r.fragSize v.psm
      · rw [walkFrom_truncated v orb k cur r hread hp]
        exact .failed _ k.succ_pos rfl (.inr (.inr (.inl ⟨rfl, rfl⟩)))
      · rw [walkFrom_emit v orb k cur r hread (by omega)]
        cases ih (cur - 16 - payloadBytes r.fragSize v.psm) with
        | completed hstop hlen => exact .completed hstop (congrArg (· + 1) hlen)
        | failed f hlen hstop hfails =>
          refine .failed f (Nat.succ_lt_succ hlen) ?_ hfails
          rw [hstop, List.length_cons]
          congr 3
          omega

end Sys2Proof.Machine

namespace Sys2Proof
open Machine

/-- Settles O41: the fragments from ordinal 0 up are all good, and then none is left to find. -/
theorem walkWellFormedRegion : Obligations.WalkWellFormedRegion := by
  rintro s _ q hpsm rfl hend ⟨hin, hok⟩
  have hwalk := walkFrom_fragments (v := s.view) (j := 0) 0xFF hpsm
    (by rwa [Nat.zero_add]) fun k _ hk => hok k (by rwa [Nat.zero_add] at hk)
  rw [Nat.zero_add, fragStart_zero, walkFrom_zero, List.append_nil, ← List.range_eq_range',
    fragStart, ← hend] at hwalk
  exact exec_walk_completed hwalk

/-- Settles O42: the fragments above ordinal `j` are good, and the walk stops at the next trailer. -/
theorem walkCorruptedMarker : Obligations.WalkCorruptedMarker := by
  rintro s _ q j hpsm rfl hend hj ⟨hin, hok, hbad, -⟩
  obtain ⟨n, hn⟩ := Nat.exists_eq_add_of_le hj
  rw [Nat.succ_eq_add_one] at hn
  rw [hn] at hin hend hok
  have hwalk := walkFrom_fragments (v := s.view) (j := j + 1) 0xFF hpsm hin
    fun k hjk hk => hok k hk (by omega)
  rw [walkFrom_damaged 0xFF ((fragStart_mono _ q (Nat.le_add_right _ n)).trans hin) hbad,
    List.append_nil, fragStart, ← hend, ← hn] at hwalk
  rw [exec_walk_stopped hwalk, hn, Nat.add_sub_cancel_left, badTrailerMarkerRec_eq]
  rfl

/-- Settles O43: each descriptor is the first of a walk for the fragments left, and so is the next. -/
theorem walkOrdinalsAndOffsets : Obligations.WalkOrdinalsAndOffsets := by
  intro v orb ec c hec hc j r hr
  obtain ⟨hj, -⟩ := List.getElem?_eq_some_iff.1 hr
  obtain ⟨cur, hcur, hdrop⟩ := walkFrom_drop hj.le
  have hnth (i : Nat) : (walkFrom v orb ec c).frags[j + i]? =
      (walkFrom v orb (ec - j) cur).frags[i]? := by rw [← hdrop, List.getElem?_drop]
  obtain ⟨hpos, start, p, t, hends, rfl, htail⟩ := walkFrom_first ((hnth 0).symm.trans hr)
  refine ⟨by omega, rfl, by simp only [fragRecOf, BitVec.toNat_ofNat]; omega, fun r' hr' => ?_⟩
  rw [hnth, ← List.getElem?_tail, htail] at hr'
  obtain ⟨hpos', start', p', t', hends', rfl, -⟩ := walkFrom_first hr'
  simp only [fragRecOf, BitVec.toNat_ofNat]
  omega

/-- Settles O44: by cases on the walk's end. -/
theorem walkTermination : Obligations.WalkTermination := by
  intro v orb ec c w
  cases walkFrom_end v orb ec c with
  | completed hstop hlen =>
    rw [show w.stop = none from hstop]
    exact hlen
  | failed f hlen hstop hfails =>
    rw [show w.stop = some _ from hstop]
    exact ⟨hlen, rfl, hfails⟩

end Sys2Proof

/-! PROOFS. The decoder's statements: the header failure that ends a decode (R142), and the record of an orbit (R141, R143). -/

namespace Sys2Proof.Machine

/-! ### One orbit of a decode (R141) -/

/-- The result memories after the visit of orbit `i`, whose header is `h`: its walk's records, then its own. -/
def visitOrbit (v : EngineView) (i : Nat) (h : OrbitHeader) (r : Results) : Results :=
  emitOrbit (orbitRecOf i (sliceStart v.len i) h r.frags.length (walkOrbit v i h))
    (commitWalk (BitVec.ofNat 8 i) (walkOrbit v i h) r)

section
variable (v : EngineView) (i : Nat) (h : OrbitHeader) (r : Results)

@[simp] theorem visitOrbit_frags :
    (visitOrbit v i h r).frags = r.frags ++ (walkOrbit v i h).frags := commitWalk_frags _ _ _

@[simp] theorem visitOrbit_orbits : (visitOrbit v i h r).orbits = r.orbits ++
    [orbitRecOf i (sliceStart v.len i) h r.frags.length (walkOrbit v i h)] := by
  rw [visitOrbit, emitOrbit_orbits, commitWalk_orbits]

theorem visitOrbit_errs : (visitOrbit v i h r).errs =
    (commitWalk (BitVec.ofNat 8 i) (walkOrbit v i h) r).errs := rfl

end

/-- Records appended behind `l` stand from its end on, whatever is appended later. -/
theorem getElem?_of_append_prefix {α : Type} {l m l' : List α} (h : l ++ m <+: l') {j : Nat}
    (hj : j < m.length) : l'[l.length + j]? = m[j]? := by
  obtain ⟨t, rfl⟩ := h
  rw [List.append_assoc, List.getElem?_append_right (Nat.le_add_right _ _),
    Nat.add_sub_cancel_left, List.getElem?_append_left hj]

/-- An error that stops the walk of an orbit has its record (R129, R143). -/
theorem mem_visitOrbit_errs {v : EngineView} {i : Nat} {h : OrbitHeader} {ord : BitVec 16}
    {f : Failure} (r : Results) (hstop : (walkOrbit v i h).stop = some (ord, f)) :
    { kind := f.kind, orbit := BitVec.ofNat 8 i, ordinal := ord,
      offset := BitVec.ofNat 64 f.offset, expected := BitVec.ofNat 64 f.expected,
      actual := BitVec.ofNat 64 f.actual } ∈ (visitOrbit v i h r).errs := by
  rw [visitOrbit_errs, commitWalk, hstop]
  exact List.mem_concat_self

/-- No offset in the buffer is cut where a header's cursor holds it (R110). -/
theorem headerAt_cursor_toNat {v : EngineView} {a : Nat} (ha : a + 32 < 2 ^ 32) :
    (headerAt v a).cursor.toNat = a + 32 := by
  rw [headerAt, BitVec.toNat_ofNat, Nat.mod_eq_of_lt ha]

/-- The walk of an orbit is for the fragments its header counts, from the end of the region behind it (R124, R141). -/
theorem walkOrbit_headerAt {v : EngineView} {a : Nat} (i : Nat) (ha : a + 32 < 2 ^ 32) :
    walkOrbit v i (headerAt v a) = walkFrom v (BitVec.ofNat 8 i) (headerAt v a).eventCount.toNat
      (a + 32 + (headerAt v a).packetWordCount.toNat * 16) := by
  rw [walkOrbit, headerAt_cursor_toNat ha]
  rfl

/-! ### The orbits of a decode in turn -/

section
variable {v : EngineView} {i : Nat} (n : Nat) (r : Results)

theorem decodeOrbits_error {f : Failure} (h : parseHeader v (sliceStart v.len i) = .error f) :
    decodeOrbits v (n + 1) i r = raiseIn (BitVec.ofNat 8 i) Config.noneOrd f r := by
  rw [decodeOrbits, h]

theorem decodeOrbits_ok {h : OrbitHeader} (hp : parseHeader v (sliceStart v.len i) = .ok h) :
    decodeOrbits v (n + 1) i r = decodeOrbits v n (i + 1) (visitOrbit v i h r) := by
  rw [decodeOrbits, hp]
  rfl

/-- A decode that comes to an orbit whose header does not parse adds the error's record and ends (R142). -/
theorem decodeOrbits_badHeader (h : ¬ headerOk v (sliceStart v.len i)) :
    decodeOrbits v (n + 1) i r = { r with errs := r.errs ++
      [if v.len < sliceStart v.len i + 32
        then truncatedHeaderRec (BitVec.ofNat 8 i) v.len (sliceStart v.len i)
        else badHeaderMarkerRec (BitVec.ofNat 8 i) (sliceStart v.len i)
          (fieldValue v (sliceStart v.len i) 2)] } := by
  split
  case isTrue hshort => exact decodeOrbits_truncated n r hshort
  case isFalse hroom =>
    have hroom := Nat.not_lt.1 hroom
    rw [decodeOrbits_error n r (parseHeader_badMarker hroom fun hho => h ⟨hroom, hho⟩)]
    rfl

end

section
variable {v : EngineView} {k i : Nat} {r : Results}

/-- While the headers parse, a decode visits its first `k` orbits and goes on with the others. -/
theorem decodeOrbits_add (n : Nat)
    (hok : ∀ j, i ≤ j → j < i + k → headerOk v (sliceStart v.len j)) :
    decodeOrbits v (k + n) i r = decodeOrbits v n (i + k) (decodeOrbits v k i r) := by
  induction k generalizing i r with
  | zero => rw [Nat.zero_add]; rfl
  | succ k ih =>
    have hp := parseHeader_of_headerOk (hok i le_rfl (by omega))
    rw [Nat.add_right_comm, decodeOrbits_ok _ _ hp, decodeOrbits_ok _ _ hp,
      ih fun j hij hj => hok j (by omega) (by omega), Nat.add_assoc, Nat.add_comm 1 k]

/-- While the headers parse, each orbit leaves one record. -/
theorem decodeOrbits_orbits_length
    (hok : ∀ j, i ≤ j → j < i + k → headerOk v (sliceStart v.len j)) :
    (decodeOrbits v k i r).orbits.length = r.orbits.length + k := by
  induction k generalizing i r with
  | zero => rfl
  | succ k ih =>
    rw [decodeOrbits_ok _ _ (parseHeader_of_headerOk (hok i le_rfl (by omega))),
      ih fun j hij hj => hok j (by omega) (by omega), visitOrbit_orbits, List.length_append,
      List.length_singleton]
    omega

end

/-- DECODE when the headers of the orbits before `i` parse: what these orbits give, then the others (R140). -/
theorem exec_decode_from {s : State} {i : Nat} (hi : i < Config.nOrbits)
    (hok : ∀ j, j < i → headerOk s.view (sliceStart s.view.len j)) :
    exec .decode s = .next (complete { s with
      results := decodeOrbits s.view (Config.nOrbits - 1 - i + 1) i
        (decodeOrbits s.view i 0 s.results) }) := by
  have hsplit := decodeOrbits_add (v := s.view) (k := i) (i := 0) (r := s.results)
    (Config.nOrbits - 1 - i + 1) fun j _ hj => hok j (by omega)
  rw [Nat.zero_add, show i + (Config.nOrbits - 1 - i + 1) = Config.nOrbits by omega] at hsplit
  rw [exec_decode, hsplit]

/-- DECODE when the headers of the orbits up to `i` parse: it visits orbit `i` after those before it,
and the later orbits only add to what this visit leaves (R15, R141). -/
theorem exec_decode_visits {s : State} {i : Nat} (hi : i < Config.nOrbits)
    (hok : ∀ j, j ≤ i → headerOk s.view (sliceStart s.view.len j)) :
    ∃ r, exec .decode s = .next (complete { s with results := r }) ∧
      (visitOrbit s.view i (headerAt s.view (sliceStart s.view.len i))
        (decodeOrbits s.view i 0 s.results)).Extends r := by
  rw [exec_decode_from hi fun j hj => hok j hj.le,
    decodeOrbits_ok _ _ (parseHeader_of_headerOk (hok i le_rfl))]
  exact ⟨_, rfl, extends_decodeOrbits _ _ _ _⟩

end Sys2Proof.Machine

namespace Sys2Proof
open Machine

/-- Settles O47: the run comes to orbit `i` with what the orbits before it give, and ends there. -/
theorem decodeHeaderFailureEndsRun : Obligations.DecodeHeaderFailureEndsRun := by
  intro s i hi L a hok hbad before
  refine ⟨_, exec_decode_from hi hok, ?_⟩
  have hlen : before.orbits.length = s.results.orbits.length + i :=
    decodeOrbits_orbits_length fun j _ hj => hok j (by omega)
  rw [decodeOrbits_badHeader _ _ hbad]
  exact ⟨hlen, rfl, rfl, rfl, by simp, rfl⟩

/-- Settles O48: orbit `i` is visited with `i` records before it, and what its visit leaves stays. -/
theorem decodeRecordsOrbit : Obligations.DecodeRecordsOrbit := by
  intro s i hi hempty L a hok h w
  have hroom : sliceStart s.view.len i + 32 < 2 ^ 32 := (hok i le_rfl).1.trans_lt s.eng.len.isLt
  have hwalk : walkOrbit s.view i h = w := walkOrbit_headerAt i hroom
  obtain ⟨r, hexec, hfrags, horbits, herrs⟩ := exec_decode_visits hi hok
  have hlen : (decodeOrbits s.view i 0 s.results).orbits.length = i := by
    rw [decodeOrbits_orbits_length fun j _ hj => hok j (by omega), hempty]
    exact Nat.zero_add i
  have hbound : (decodeOrbits s.view i 0 s.results).frags.length ≤ 4095 * i := by
    rw [hempty]
    exact (decodeOrbits_bounds s.view i 0 .empty).1.trans (Nat.zero_add _).le
  generalize decodeOrbits s.view i 0 s.results = before at hfrags horbits herrs hlen hbound
  rw [visitOrbit_frags] at hfrags
  rw [visitOrbit_orbits] at horbits
  refine ⟨_, before.frags.length, hexec, ?_, hbound, fun j hj => ?_, fun ord f hstop => ?_⟩
  · have hrec := getElem?_of_append_prefix horbits Nat.zero_lt_one
    rw [hlen, Nat.add_zero] at hrec
    rw [complete_results, hrec, ← hwalk, List.getElem?_cons_zero, orbitRecOf,
      headerAt_cursor_toNat hroom]
    rfl
  · rw [← hwalk] at hj ⊢
    exact getElem?_of_append_prefix hfrags hj
  · exact herrs.subset (mem_visitOrbit_errs before (hwalk ▸ hstop))

end Sys2Proof

/-! PROOFS. The decoder's statements: the order of its output (R146), and the bound on its errors (R144). -/

namespace Sys2Proof.Machine

/-! ### The error records (R144) -/

/-- The error records `es` are of orbits below `i`, in increasing orbit. -/
def ErrsBefore (i : Nat) (es : List ErrRec) : Prop :=
  es.Pairwise (fun e e' => e.orbit.toNat < e'.orbit.toNat) ∧ ∀ e ∈ es, e.orbit.toNat < i

theorem ErrsBefore.mono {i j : Nat} {es : List ErrRec} (h : ErrsBefore i es) (hij : i ≤ j) :
    ErrsBefore j es := ⟨h.1, fun e he => (h.2 e he).trans_le hij⟩

/-- An error of orbit `i` comes after those of the orbits before it. -/
theorem ErrsBefore.raiseIn {i : Nat} {r : Results} (h : ErrsBefore i r.errs) (hi : i < 256)
    (ord : BitVec 16) (f : Failure) :
    ErrsBefore (i + 1) (raiseIn (BitVec.ofNat 8 i) ord f r).errs := by
  obtain ⟨hrise, hbefore⟩ := h
  have horbit : (BitVec.ofNat 8 i).toNat = i := Nat.mod_eq_of_lt hi
  rw [raiseIn_errs]
  refine ⟨List.pairwise_append.2 ⟨hrise, List.pairwise_singleton _ _, ?_⟩, ?_⟩
  · intro e he e' he'
    rw [List.mem_singleton.1 he', horbit]
    exact hbefore e he
  · intro e he
    rcases List.mem_append.1 he with he | he
    · exact (hbefore e he).trans i.lt_succ_self
    · rw [List.mem_singleton.1 he, horbit]
      exact i.lt_succ_self

/-- The visit of orbit `i` raises at most its walk's error (R129, R144). -/
theorem ErrsBefore.visitOrbit {i : Nat} {r : Results} (h : ErrsBefore i r.errs) (hi : i < 256)
    (v : EngineView) (hd : OrbitHeader) : ErrsBefore (i + 1) (visitOrbit v i hd r).errs := by
  rw [visitOrbit_errs, commitWalk]
  split
  · exact h.mono i.le_succ
  · exact ErrsBefore.raiseIn (r := emitFrags _ r) h hi _ _

/-- Each orbit of a decode raises at most one error: by induction on the orbits still to visit. -/
theorem ErrsBefore.decodeOrbits (v : EngineView) {n i : Nat} {r : Results}
    (h : ErrsBefore i r.errs) (hi : i + n ≤ 256) :
    ErrsBefore (i + n) (decodeOrbits v n i r).errs := by
  induction n generalizing i r with
  | zero => exact h
  | succ n ih =>
    cases hp : parseHeader v (sliceStart v.len i) with
    | error f =>
      rw [decodeOrbits_error n r hp]
      exact (h.raiseIn (by omega) _ f).mono (by omega)
    | ok hd =>
      rw [decodeOrbits_ok n r hp, ← Nat.succ_add_eq_add_succ]
      exact ih (h.visitOrbit (by omega) v hd) (by omega)

theorem errsBefore_decode (v : EngineView) :
    ErrsBefore 4 (decodeOrbits v Config.nOrbits 0 .empty).errs := by
  have h : ErrsBefore 0 Results.empty.errs := ⟨.nil, by simp⟩
  exact ErrsBefore.decodeOrbits (n := Config.nOrbits) v h (by decide)

/-! ### The orbit records and their descriptors (R146) -/

/-- The record `o` is orbit `i`'s, and its descriptors are `fs`, which stand in FRAG_MEM from index
`k` on: they are of its orbit, from ordinal `eventCount - 1` down. -/
structure OrbitBlock (i k : Nat) (o : OrbitRec) (fs : List FragRec) : Prop where
  orbit : o.orbit.toNat = i
  first : o.firstFrag.toNat = k
  count : o.numFrags.toNat = fs.length
  frags : ∀ j f, fs[j]? = some f →
    f.orbit = o.orbit ∧ f.ordinal.toNat + 1 + j = o.eventCount.toNat

/-- The records `os` are those of the orbits from `i` on, and `fs` their descriptors, block after
block from index `k` of FRAG_MEM on. -/
inductive InOrder : Nat → Nat → List OrbitRec → List FragRec → Prop
  | nil (i k : Nat) : InOrder i k [] []
  | cons {i k : Nat} {o : OrbitRec} {os : List OrbitRec} {gs fs : List FragRec}
      (hblock : OrbitBlock i k o gs) (hrest : InOrder (i + 1) (k + gs.length) os fs) :
      InOrder i k (o :: os) (gs ++ fs)

section
variable {i k n : Nat} {o : OrbitRec} {os : List OrbitRec} {fs : List FragRec}

theorem InOrder.frags_eq_nil (h : InOrder i k [] fs) : fs = [] := by cases h; rfl

theorem InOrder.first_of_head (h : InOrder i k os fs) (ho : os[0]? = some o) :
    o.firstFrag.toNat = k := by
  cases h with
  | nil => simp at ho
  | cons hblock _ =>
    cases ho
    exact hblock.first

/-- From any of the orbits on, the records and the descriptors that are left are in order again. -/
theorem InOrder.drop (h : InOrder i k os fs) (hn : n ≤ os.length) :
    ∃ before rest, fs = before ++ rest ∧ InOrder (i + n) (k + before.length) (os.drop n) rest := by
  induction h generalizing n with
  | nil i k => exact ⟨[], [], rfl, by simpa using .nil (i + n) k⟩
  | @cons i k o os gs fs hblock hrest ih =>
    cases n with
    | zero => exact ⟨[], _, rfl, .cons hblock hrest⟩
    | succ n =>
      obtain ⟨before, rest, rfl, hdrop⟩ := ih (Nat.le_of_succ_le_succ hn)
      refine ⟨gs ++ before, rest, (List.append_assoc _ _ _).symm, ?_⟩
      rw [List.length_append, ← Nat.add_assoc k, show i + (n + 1) = i + 1 + n by omega]
      exact hdrop

/-- Record `n` has its block among the descriptors, and the later orbits are in order behind it. -/
theorem InOrder.block (h : InOrder i k os fs) (ho : os[n]? = some o) :
    ∃ before gs rest, fs = before ++ gs ++ rest ∧ OrbitBlock (i + n) (k + before.length) o gs ∧
      InOrder (i + n + 1) (k + before.length + gs.length) (os.drop (n + 1)) rest := by
  obtain ⟨hn, rfl⟩ := List.getElem?_eq_some_iff.1 ho
  obtain ⟨before, rest, rfl, hdrop⟩ := h.drop hn.le
  rw [List.drop_eq_getElem_cons hn] at hdrop
  cases hdrop with
  | cons hblock hrest =>
    exact ⟨before, _, _, (List.append_assoc _ _ _).symm, hblock, hrest⟩

end

/-- The descriptors of an orbit's walk are of its orbit, in decreasing ordinal from its header's
eventCount (R128). -/
theorem walkOrbit_frags_orbit_ordinal {v : EngineView} {i j : Nat} {h : OrbitHeader} {f : FragRec}
    (hf : (walkOrbit v i h).frags[j]? = some f) :
    f.orbit = BitVec.ofNat 8 i ∧ f.ordinal.toNat + 1 + j = h.eventCount.toNat := by
  have hec := h.eventCount.isLt
  have hcursor := h.cursor.isLt
  have hpwc := h.packetWordCount.isLt
  have hend : regionEnd h.cursor.toNat h.packetWordCount.toNat < 2 ^ 64 := by
    simp only [regionEnd, Config.wordBytes]
    omega
  obtain ⟨hj, horbit, hord, -⟩ := walkOrdinalsAndOffsets v _ _ _ (by omega) hend j f hf
  exact ⟨horbit, by omega⟩

theorem walkOrbit_frags_length_le (v : EngineView) (i : Nat) (h : OrbitHeader) :
    (walkOrbit v i h).frags.length ≤ 4095 :=
  (walkFrom_frags_length_le _ _ _ _).trans (Nat.le_of_lt_succ h.eventCount.isLt)

/-- An orbit's record and the descriptors of its walk, behind the `first` descriptors before it (R141). -/
theorem orbitBlock_orbitRecOf (v : EngineView) {i first : Nat} (start : Nat) (h : OrbitHeader)
    (hi : i < 256) (hfirst : first < 2 ^ 15) :
    OrbitBlock i first (orbitRecOf i start h first (walkOrbit v i h)) (walkOrbit v i h).frags where
  orbit := Nat.mod_eq_of_lt hi
  first := Nat.mod_eq_of_lt hfirst
  count := Nat.mod_eq_of_lt ((walkOrbit_frags_length_le v i h).trans_lt (by decide))
  frags _ _ hf := walkOrbit_frags_orbit_ordinal hf

/-- A decode appends the records and the descriptors of its orbits in order: by induction on the
orbits still to visit. FRAG_MEM's bound for the orbits before `i` keeps FIRST_FRAG exact (R33). -/
theorem decodeOrbits_inOrder (v : EngineView) {n i : Nat} {r : Results}
    (hin : i + n ≤ Config.nOrbits) (hr : r.frags.length ≤ 4095 * i) :
    ∃ os fs, (decodeOrbits v n i r).orbits = r.orbits ++ os ∧
      (decodeOrbits v n i r).frags = r.frags ++ fs ∧ InOrder i r.frags.length os fs := by
  have hn : Config.nOrbits = 4 := rfl
  induction n generalizing i r with
  | zero => exact ⟨[], [], (List.append_nil _).symm, (List.append_nil _).symm, .nil _ _⟩
  | succ n ih =>
    cases hp : parseHeader v (sliceStart v.len i) with
    | error f =>
      rw [decodeOrbits_error n r hp]
      exact ⟨[], [], (List.append_nil _).symm, (List.append_nil _).symm, .nil _ _⟩
    | ok h =>
      have hw := walkOrbit_frags_length_le v i h
      obtain ⟨os, fs, hos, hfs, horder⟩ := ih (i := i + 1) (r := visitOrbit v i h r) (by omega)
        (by rw [visitOrbit_frags, List.length_append]; omega)
      rw [visitOrbit_orbits, List.append_assoc] at hos
      rw [visitOrbit_frags, List.append_assoc] at hfs
      rw [visitOrbit_frags, List.length_append] at horder
      rw [decodeOrbits_ok n r hp]
      exact ⟨_, _, hos, hfs,
        .cons (orbitBlock_orbitRecOf v _ h (by omega) (by omega)) horder⟩

theorem decode_inOrder (v : EngineView) :
    InOrder 0 0 (decodeOrbits v Config.nOrbits 0 .empty).orbits
      (decodeOrbits v Config.nOrbits 0 .empty).frags := by
  obtain ⟨os, fs, hos, hfs, horder⟩ :=
    decodeOrbits_inOrder v (n := Config.nOrbits) (i := 0) (r := .empty) le_rfl le_rfl
  rw [hos, hfs]
  exact horder

theorem exec_decode_of_empty {s : State} (h : s.results = .empty) : exec .decode s =
    .next (complete { s with results := decodeOrbits s.view Config.nOrbits 0 .empty }) := by
  rw [exec_decode, h]

end Sys2Proof.Machine

namespace Sys2Proof
open Machine

/-- Settles O49: every orbit's error comes after those of the orbits before it, and there are four orbits. -/
theorem decodeErrorBound : Obligations.DecodeErrorBound := by
  intro s hempty
  obtain ⟨hrise, hbefore⟩ := errsBefore_decode s.view
  exact ⟨_, exec_decode_of_empty hempty, (fit_decodeOrbits_empty s.view).errs, hbefore, hrise⟩

/-- Settles O50: the decode's records are in order, so each has its block of descriptors, with the
next orbit's, or FRAG_MEM's end, behind it. -/
theorem decodeOutputOrder : Obligations.DecodeOutputOrder := by
  intro s hempty
  refine ⟨_, exec_decode_of_empty hempty, fun n o ho => ?_, fun hnone => ?_,
    (errsBefore_decode s.view).1⟩
  · have horder := decode_inOrder s.view
    have hcap := (fit_decodeOrbits_empty s.view).orbits
    rw [complete_results] at ho ⊢
    generalize decodeOrbits s.view Config.nOrbits 0 .empty = r at ho horder hcap ⊢
    obtain ⟨before, gs, rest, hfs, ⟨horbit, hfirst, hcount, hgs⟩, hrest⟩ := horder.block ho
    simp only [Nat.zero_add] at horbit hfirst hrest
    rw [hfirst, hcount, hfs]
    refine ⟨(List.getElem?_eq_some_iff.1 ho).1.trans_le hcap, horbit, ?_, ?_, ?_, ?_⟩
    · rintro rfl
      rw [← hfirst]
      exact horder.first_of_head ho
    · intro o' ho'
      rw [← List.getElem?_drop (j := 0)] at ho'
      exact hrest.first_of_head ho'
    · intro hnone
      rw [List.drop_eq_nil_of_le (List.getElem?_eq_none_iff.1 hnone)] at hrest
      rw [hrest.frags_eq_nil, List.append_nil, List.length_append]
    · intro j hj
      refine ⟨gs[j], ?_, hgs j _ (List.getElem?_eq_getElem hj)⟩
      rw [getElem?_of_append_prefix (List.prefix_append _ _) hj, List.getElem?_eq_getElem hj]
  · have horder := decode_inOrder s.view
    rw [complete_results] at hnone
    rw [hnone] at horder
    exact horder.frags_eq_nil

end Sys2Proof

/-! PROOFS. The decoder's statements: no failure of a command stops the machine, and neither does a host that keeps its duties (R145, R175). -/

namespace Sys2Proof.Machine

/-- The engine's turn goes on when the latched copies of a running command form a command (R41, R145). -/
theorem engineStep_next {s : State} (h : s.eng.phase = .run → ∃ i, fetch s.eng = .ok i) :
    ∃ t, engineStep s = .next t := by
  cases hphase : s.eng.phase with
  | idle => exact ⟨s, by rw [engineStep, hphase]⟩
  | run =>
    obtain ⟨i, hfetch⟩ := h hphase
    obtain ⟨o, -, hexec⟩ := exec_outputs i s
    exact ⟨_, (engineStep_run s i hphase hfetch).trans hexec⟩

/-- A host that keeps its duties writes its bytes (R51, R175). -/
theorem hostBytes_of_duty {off : BitVec 32} {bs : List Byte} {s : State}
    (hidle : s.status.busy = false)
    (hin : bs = [] ∨ off.toNat + bs.length ≤ s.bufCap.toNat) :
    hostBytes off bs s = .next { s with buf := s.buf.writeBytes off.toNat bs } := by
  rcases hin with rfl | hin
  · simp [hostBytes, hidle]
  · exact hostBytes_inside hidle hin

end Sys2Proof.Machine

namespace Sys2Proof
open Machine

/-- Settles O57: by cases on the next move. The engine's turn goes on because the invariant has a
command latched while it runs, and the host's buffer writes because of its duties. -/
theorem neverStops : Obligations.NeverStops := by
  intro s hinv hduty
  have hturn (ms : List Move) : ∃ t, engineStep { s with moves := ms } = .next t :=
    engineStep_next fun hrun => (hinv.runLegal hrun).imp fun _ hi => hi.1
  cases hm : s.moves with
  | nil => exact step_nil hm ▸ hturn s.moves
  | cons m ms =>
    cases m with
    | engine => exact step_engine hm ▸ hturn ms
    | wait =>
      cases hdone : s.status.done with
      | false => exact step_wait_engine hm hdone ▸ hturn s.moves
      | true => exact ⟨_, step_wait_done hm hdone⟩
    | wr x v => exact ⟨_, step_wr hm⟩
    | rd x => exact ⟨_, step_rd hm⟩
    | rst => exact ⟨_, step_rst hm⟩
    | bytes off bs =>
      obtain ⟨hidle, hin⟩ : s.status.busy = false ∧
          (bs = [] ∨ off.toNat + bs.length ≤ s.bufCap.toNat) := by
        simpa [hostKeepsDuty, hm] using hduty
      exact ⟨_, (step_bytes hm).trans (hostBytes_of_duty hidle hin)⟩

end Sys2Proof

/-! PROOFS. The exceptions' statements: the priority of a trailer step's errors (R153), and the idle core (R165). -/

namespace Sys2Proof.Machine

section
variable {v : EngineView} {c : Nat} (orb : BitVec 8) (k : Nat) (hroom : 16 ≤ c) (hin : c ≤ v.len)
  (hmarker : fieldValue v (c - 16) 2 = trailerMarkerValue v.tmo)
include hroom hin hmarker

/-- Under a good marker, a payload larger than the trailer start stops the walk (R126, R127). -/
theorem walkFrom_payload_too_large
    (hlarge : c - 16 < payloadSizeOf v.psm (fieldValue v (c - 16 + 4) 4)) :
    walkFrom v orb (k + 1) c =
      { frags := [],
        stop := some (BitVec.ofNat 16 k,
          { kind := .truncatedPayload, offset := c - 16,
            expected := payloadSizeOf v.psm (fieldValue v (c - 16 + 4) 4), actual := c - 16 }),
        cursor := c - 16 } := by
  rw [← payloadBytes_trailerAt] at hlarge ⊢
  exact walkFrom_truncated v orb k c _ (readTrailer_ok hroom hin hmarker) hlarge

/-- Under a good marker, a payload that fits is emitted, and the walk goes on from its start (R126). -/
theorem walkFrom_payload_fits
    (hfits : payloadSizeOf v.psm (fieldValue v (c - 16 + 4) 4) ≤ c - 16) :
    walkFrom v orb (k + 1) c =
      { walkFrom v orb k (c - 16 - payloadSizeOf v.psm (fieldValue v (c - 16 + 4) 4)) with
        frags := fragRecOf orb k (c - 16 - payloadSizeOf v.psm (fieldValue v (c - 16 + 4) 4))
            (payloadSizeOf v.psm (fieldValue v (c - 16 + 4) 4)) (trailerAt v (c - 16))
          :: (walkFrom v orb k
            (c - 16 - payloadSizeOf v.psm (fieldValue v (c - 16 + 4) 4))).frags } := by
  rw [← payloadBytes_trailerAt] at hfits ⊢
  exact walkFrom_emit v orb k c _ (readTrailer_ok hroom hin hmarker) hfits

end

/-- An idle engine's turn keeps all state (R165). -/
theorem engineStep_idle {s : State} (h : s.eng.phase = .idle) : engineStep s = .next s := by
  rw [engineStep, h]

end Sys2Proof.Machine

namespace Sys2Proof
open Machine

/-- Settles O37: the first three clauses are the failures of the trailer read, and a good trailer's
payload decides between the last two. -/
theorem walkStepPriority : Obligations.WalkStepPriority := by
  intro v orb k c t p w
  refine ⟨fun hshort => ?_, fun hroom hout => ?_, fun hroom hin hmarker => ?_,
    fun hroom hin hmarker hlarge => ?_, fun hroom hin hmarker hfits => ?_⟩
  · rw [show w = _ from walkFrom_stop v orb k c _ (readTrailer_truncated hshort)]
    exact ⟨rfl, rfl, rfl⟩
  · obtain ⟨off, n, hfirst, hread⟩ := readTrailer_outOfBounds (v := v) hroom hout
    rw [show w = _ from walkFrom_stop v orb k c _ hread]
    exact ⟨off, n, hfirst, rfl, rfl, rfl⟩
  · rw [show w = _ from walkFrom_stop v orb k c _ (readTrailer_badMarker hroom hin hmarker)]
    exact ⟨rfl, rfl, rfl⟩
  · rw [show w = _ from walkFrom_payload_too_large orb k hroom hin hmarker hlarge]
    exact ⟨rfl, rfl, rfl⟩
  · rw [show w = _ from walkFrom_payload_fits orb k hroom hin hmarker hfits]
    exact ⟨rfl, rfl, rfl⟩

/-- Settles O10: with no move left the engine has its turn, and an idle engine keeps all state. -/
theorem idleKeepsState : Obligations.IdleKeepsState := fun _ hidle hmoves =>
  (step_nil hmoves).trans (engineStep_idle hidle)

end Sys2Proof
